-- ==== Sys2Proof/Word.lean ====
section
/-! DEFINITION. The command word: 32 bits, one length (30_encoding.md R80). Bit 0 is the least significant (R9). -/

namespace Sys2Proof

/-- A command word as `cmd_word_i` carries it (R41, R80). No space of the block is byte-addressed, so the word has no
byte order (R65). -/
abbrev Word := BitVec 32

end Sys2Proof
end

