-- ==== Sys2Proof/Config.lean ====
section
/-! DEFINITION. The configuration record of an instance (00_scope.md R5), its well-formedness (R6), the instance's own
record as an opaque constant, and the free values. -/

namespace Sys2Proof

/-- The open parameters of R5, under the names the spec gives them. The two tables are ROM contents and never state
(20_memory.md R71). -/
structure Config where
  /-- number of channels -/
  C : Nat
  /-- number of curve tables -/
  T : Nat
  /-- samples per curve table -/
  STEPS : Nat
  /-- ticks per unit of `period` -/
  TABLE_BASE : Nat
  /-- entries of the correction table -/
  N : Nat
  /-- full-scale output of the correction table -/
  CORR_MAX : Nat
  /-- largest duty value the PWM sink takes -/
  DUTY_MAX : Nat
  /-- the curve tables -/
  CURVE : List (List Nat)
  /-- the correction table -/
  CORR : List Nat
  deriving DecidableEq, Repr

/-- The tables have the sizes R5 gives them (DEDUCED, log 2: R6 does not list them): `CURVE[t][i]` for `t < T`, `i < STEPS`, and `CORR[v]` for `v < N`. -/
abbrev Config.Sized (k : Config) : Prop :=
  k.CURVE.length = k.T ∧ (∀ table ∈ k.CURVE, table.length = k.STEPS) ∧ k.CORR.length = k.N

/-- W1 of R6. -/
abbrev Config.W1 (k : Config) : Prop := 1 ≤ k.C ∧ k.C ≤ 256

/-- W2 of R6. -/
abbrev Config.W2 (k : Config) : Prop := 1 ≤ k.T ∧ k.T ≤ 16

/-- W3 of R6: it makes the tick's `interval` at least 1 (R210). -/
abbrev Config.W3 (k : Config) : Prop := 1 ≤ k.STEPS ∧ k.STEPS ≤ k.TABLE_BASE ∧ k.TABLE_BASE ≤ 65536

/-- W4 of R6: every curve sample is in the correction table's range. -/
abbrev Config.W4 (k : Config) : Prop :=
  1 ≤ k.N ∧ k.N ≤ 65536 ∧ ∀ table ∈ k.CURVE, ∀ v ∈ table, v ≤ k.N - 1

/-- W5 of R6: the correction table is non-decreasing, entry by entry. -/
abbrev Config.W5 (k : Config) : Prop :=
  ∀ v < k.N - 1, k.CORR.getD v 0 ≤ k.CORR.getD (v + 1) 0

/-- W6 of R6. -/
abbrev Config.W6 (k : Config) : Prop :=
  1 ≤ k.CORR_MAX ∧ k.CORR_MAX ≤ 65535 ∧ ∀ v ∈ k.CORR, v ≤ k.CORR_MAX

/-- W7 of R6. -/
abbrev Config.W7 (k : Config) : Prop := 1 ≤ k.DUTY_MAX ∧ k.DUTY_MAX ≤ 65535

/-- `WF(cfg)` of R6, with the table sizes of R5 (log 2). -/
abbrev Config.WF (k : Config) : Prop :=
  k.Sized ∧ k.W1 ∧ k.W2 ∧ k.W3 ∧ k.W4 ∧ k.W5 ∧ k.W6 ∧ k.W7

/-- A record together with the proof that it is well-formed: a model is defined for no other (R6). The default values only
show that there is such a record; nothing rests on them. -/
structure WellFormedConfig where
  record : Config := ⟨1, 1, 1, 1, 1, 1, 1, [[0]], [0]⟩
  wf : record.WF := by decide
  deriving Inhabited

/-- DESIGN CHOICE (log 1). The instance's configuration: any well-formed record, and nothing in Lean can tell which. -/
opaque Config.chosen : WellFormedConfig

/-- The configuration of the machine that `step` runs (R5). -/
def Config.cfg : Config := Config.chosen.record

/-- Free value (log 8): a quotient by zero, which no run computes (R158). -/
opaque Config.openQuotient : Nat → Nat

/-- Free value (log 8): a remainder by zero, which no run computes (R158). -/
opaque Config.openRemainder : Nat → Nat

/-- Free value (log 8): a curve sample outside `t < T`, `i < STEPS`, which no run reads (R61). -/
opaque Config.openSample : Nat → Nat → Nat

/-- Free value (log 8): a correction entry outside `v < N`, which no run reads (R63). -/
opaque Config.openEntry : Nat → Nat

end Sys2Proof
end

