-- ==== Sys2Proof/Machine/State.lean ====
section
/-! DEFINITION. The machine's state as plain data (10_state.md), the reasons a step can stop, and the state after reset
(R31). -/

namespace Sys2Proof.Machine

/-- A channel record (R20). -/
structure Channel where
  /-- whether the tick advances and drives this channel (R21) -/
  active : Bool
  /-- 16 bits, two's complement (R22) -/
  period : BitVec 16
  /-- 32 bits, unsigned (R24) -/
  phase : BitVec 32
  /-- curve-table index, 4 bits, unsigned (R23) -/
  tbl : BitVec 4
  deriving DecidableEq, Repr

/-- The all-zero record, as reset and INIT leave it (R31, R100). -/
def Channel.zero : Channel := ⟨false, 0#16, 0#32, 0#4⟩

/-- One `PwmWrite(c, d)` (R11, R49). -/
structure PwmWrite where
  channel : Nat
  duty : Nat
  deriving DecidableEq, Repr

/-- The PWM sink space, the one space that is written (20_memory.md R64): (channel, duty) pairs in canonical form, an
unlisted channel having no value (R27, log 7). -/
abbrev Memory := List (Nat × Nat)

/-- The canonical form: channels strictly rising. -/
abbrev Memory.wf (m : Memory) : Prop := m.Pairwise (fun a b => a.1 < b.1)

/-- Outcome of an event, codes 0 to 5 of 60_exceptions.md R171: a label for a model, which the hardware does not store
(R173, log 5). -/
inductive Cause where
  | done
  | ignIndex
  | ignPeriod
  | ignTable
  | ignPercent
  | ignReserved
  deriving DecidableEq, Repr

/-- The moves of the agents outside the block (15_interfaces.md R52), each one happening before the next arbitration (log 3). -/
inductive Stimulus where
  /-- the host presents a word: `cmd_valid_i = 1`, `cmd_word_i = w` (R42) -/
  | present (w : Word)
  /-- a pulse on `tick_i` (R46) -/
  | pulse
  /-- a cycle in which the block is free to start the next event (R43) -/
  | free
  /-- a cycle with `rst_i = 1` while no event is in progress: the level rises or is held (R200, log 19) -/
  | reset
  /-- `rst_i` rises in the event that starts next, when `k` of its PWM writes have been made (R202, log 19) -/
  | resetDuring (k : Nat)
  deriving DecidableEq, Repr

/-- The state of the block and what a model carries of its surroundings. -/
structure State where
  /-- the channel state store, record `c` at index `c` (R20) -/
  channels : List Channel
  /-- the periodic driver is scheduled (R25) -/
  running : Bool
  /-- the one-deep tick latch (R33, R46) -/
  tickPending : Bool
  /-- the shadow of the PWM sink (R27) -/
  sink : Memory
  /-- all PWM writes since reset, in order (R27) -/
  trace : List PwmWrite
  /-- the response bits given since reset, in order (R44, log 4) -/
  responses : List Bool
  /-- label of the last event (R171, log 5) -/
  outcome : Cause
  /-- the PWM writes the sink received before the last reset, in order (R202, log 6) -/
  beforeReset : List PwmWrite
  /-- the level of `rst_i`: while it is 1 the block is held in the reset state (R200, log 19) -/
  rst : Bool
  /-- the word the host presents and the block has not accepted yet (R42, log 3) -/
  cmdPort : Option Word
  /-- the moves to come of the agents outside the block (R52, log 3) -/
  env : List Stimulus
  deriving DecidableEq, Repr

/-- Why the machine could stop with a fault: it has no reason to. "A model therefore has no fault outcome for any event"
(60_exceptions.md R172), so this type has no constructor (safe: there is nothing a step could raise). -/
inductive Fault where
  deriving DecidableEq, Repr

/-- Why a step is not run. -/
inductive Refusal where
  /-- Raised by an arm of `exec` whose instruction has no meaning yet; no arm raises it (safe). -/
  | notModelled (mnemonic : String)
  /-- Raised by `stepOn` on a configuration record that is not well-formed: "refuses any other (it does not run it)"
  (00_scope.md R6); safe. -/
  | malformedConfig
  deriving DecidableEq, Repr

/-- The state after reset of an instance with configuration `k`, `rst_i` having fallen (R31, R200, log 19). -/
def State.resetOn (k : Config) : State where
  channels := List.replicate k.C Channel.zero
  running := false
  tickPending := false
  sink := []
  trace := []
  responses := []
  outcome := .done
  beforeReset := []
  rst := false
  cmdPort := none
  env := []

/-- The machine right after reset (R31). -/
def State.reset : State := State.resetOn Config.cfg

end Sys2Proof.Machine
end

