-- ==== Sys2Proof/Machine/Ops.lean ====
section
/-! DEFINITION. The pseudocode primitives of 00_scope.md R11 as named operations: reads of the ROMs, writes of channel
records, of `running` and of the PWM sink, the response, and `ignore`. There is no trap entry and no return (60_exceptions.md
R179, R180): `ignoreCommand` is this hardware's form of raising an exception (R11). -/

namespace Sys2Proof.Machine

/-- The duty the sink holds for a channel, if it was written since reset (R27). -/
def Memory.read (m : Memory) (c : Nat) : Option Nat :=
  match m with
  | [] => none
  | (k, d) :: rest => if c = k then some d else Memory.read rest c

/-- Store a duty for a channel, keeping the canonical form (R64). -/
def Memory.write (m : Memory) (c d : Nat) : Memory :=
  match m with
  | [] => [(c, d)]
  | (k, e) :: rest =>
    if c < k then (c, d) :: (k, e) :: rest
    else if c = k then (c, d) :: rest
    else (k, e) :: Memory.write rest c d

/-- Change record `c` (R11); there is no record outside `0..C-1` (R20). -/
def updateChannel (c : Nat) (f : Channel → Channel) (s : State) : State :=
  { s with channels := s.channels.modify c f }

/-- `running <- b` (R25). -/
def setRunning (b : Bool) (s : State) : State := { s with running := b }

/-- `PwmWrite(c, d)`: the sink takes the write at once and the trace records it (R27, R49, R64). -/
def pwmWrite (c d : Nat) (s : State) : State :=
  { s with sink := s.sink.write c d, trace := s.trace ++ [⟨c, d⟩] }

/-- `respond(running)`, the last line of every command word (R44), with the label of its outcome (R171). -/
def finish (cause : Cause) (s : State) : State :=
  { s with responses := s.responses ++ [s.running], outcome := cause }

/-- `ignore <Cause>`: no state changes and no PWM write, the response is still given (R170). -/
def ignoreCommand (cause : Cause) (s : State) : State := finish cause s

/-- `CurveRead(t, i)` (20_memory.md R60), defined for `t < T` and `i < STEPS`; a free value elsewhere (log 8). -/
def curveRead (k : Config) (t i : Nat) : Nat :=
  match k.CURVE[t]? with
  | none => Config.openSample t i
  | some table =>
    match table[i]? with
    | none => Config.openSample t i
    | some v => v

/-- `CorrRead(v)` (20_memory.md R62), defined for `v < N`; a free value elsewhere (log 8). -/
def corrRead (k : Config) (v : Nat) : Nat :=
  match k.CORR[v]? with
  | none => Config.openEntry v
  | some e => e

/-- Truncating division (00_scope.md R10); by zero, which no run computes (R158), a free value (log 8). -/
def quotient (a b : Nat) : Nat := if b = 0 then Config.openQuotient a else a / b

/-- `a mod b` (00_scope.md R10); by zero, which no run computes (R158), a free value (log 8). -/
def remainder (a b : Nat) : Nat := if b = 0 then Config.openRemainder a else a % b

end Sys2Proof.Machine
end

