-- ==== Sys2Proof/Machine/Flags.lean ====
section
/-! DEFINITION. The flags (10_state.md R32): the bits `ch[c].active` and the bit `running`; and what the platform sees of
`running` at `drv_run_o` (15_interfaces.md R48). -/

namespace Sys2Proof.Machine

/-- `any(c => ch[c].active)` (R11). -/
def anyActive (s : State) : Bool := s.channels.any (fun ch => ch.active)

/-- `ch[c].active <- 0` (R21); the other fields of the record keep their values. -/
def deactivate (c : Nat) (s : State) : State :=
  updateChannel c (fun ch => { ch with active := false }) s

/-- The scan of STOP and SET_OFF: `if not any(k => ch[k].active) : running <- 0` (R102, R143). -/
def stopDriverIfIdle (s : State) : State := if anyActive s then s else setRunning false s

/-- The level of `drv_run_o` (R48); the reset state makes it 0 while `rst_i = 1` (R200). -/
def drvRun (s : State) : Bool := s.running

/-- The call an edge of `drv_run_o` stands for (R48). -/
inductive DriverCall where
  | schedulePeriodic
  | cancelPeriodic
  deriving DecidableEq, Repr

/-- What the platform sees between two states: a rise schedules, a fall cancels, no change is no call (R48). -/
def driverCall (before after : State) : Option DriverCall :=
  match drvRun before, drvRun after with
  | false, true => some .schedulePeriodic
  | true, false => some .cancelPeriodic
  | _, _ => none

/-- The level of `cmd_ready_o` when no event is in progress: it is 0 while `rst_i = 1` (70_reset_and_hazards.md R200), and a
waiting tick goes first and keeps it at 0 (R47). -/
def cmdReady (s : State) : Bool := !s.rst && !s.tickPending

end Sys2Proof.Machine
end

