-- ==== Sys2Proof/Machine/Operands.lean ====
section
/-! DEFINITION. The operands of 30_encoding.md R82: their legal values, which the operations check (R86), the first cause
that applies (60_exceptions.md R177), and their narrowing to the width of the field they are stored in (00_scope.md R8). -/

namespace Sys2Proof.Machine

/-- `c` is in `0..C-1`. -/
abbrev ChannelLegal (k : Config) (c : Nat) : Prop := c < k.C

/-- `p` is positive; a word cannot carry more than 32767. -/
abbrev PeriodLegal (p : Int) : Prop := 0 < p

/-- `t` is in `0..T-1`. -/
abbrev TableLegal (k : Config) (t : Nat) : Prop := t < k.T

/-- `pc` is in `0..100`. -/
abbrev PercentLegal (pc : Nat) : Prop := pc ≤ 100

/-- The record START writes: active, with the new period and table, at the beginning of its cycle (R101). -/
def startedChannel (p : Int) (t : Nat) : Channel :=
  ⟨true, BitVec.ofInt 16 p, 0#32, BitVec.ofNat 4 t⟩

/-- The outcome of START: the `ignore` lines of R101 in their order, the first that applies (R177). -/
def startCause (k : Config) (c : Nat) (p : Int) (t : Nat) : Cause :=
  if ¬ ChannelLegal k c then .ignIndex
  else if ¬ PeriodLegal p then .ignPeriod
  else if ¬ TableLegal k t then .ignTable
  else .done

/-- The outcome of a command whose one operand is a channel (R102, R140, R143). -/
def channelCause (k : Config) (c : Nat) : Cause :=
  if ¬ ChannelLegal k c then .ignIndex else .done

/-- The outcome of SET_PERCENT (R142, R177). -/
def percentCause (k : Config) (c pc : Nat) : Cause :=
  if ¬ ChannelLegal k c then .ignIndex
  else if ¬ PercentLegal pc then .ignPercent
  else .done

/-- A command word's frame: ignored when a cause applies, else performed and answered (R44, R170). -/
def perform (cause : Cause) (effect : State → State) (s : State) : State :=
  if cause = .done then finish .done (effect s) else ignoreCommand cause s

end Sys2Proof.Machine
end

