-- ==== Sys2Proof/Machine/EngineControl.lean ====
section
/-! DEFINITION. INIT, START, STOP and IS_RUNNING (40_engine_control.md): each as a function of the configuration, and its
meaning on the machine's own configuration. -/

namespace Sys2Proof.Machine

/-- `for c in 0..n-1: PwmWrite(c, 0)`, ascending (R100). -/
def allChannelsOff (n : Nat) (s : State) : State :=
  (List.range n).foldl (fun s c => pwmWrite c 0 s) s

/-- The effect of INIT before its response (R100). -/
def initEffect (k : Config) (s : State) : State :=
  allChannelsOff k.C { s with channels := List.replicate k.C Channel.zero, running := false }

/-- INIT (R100): never ignored. -/
def initOn (k : Config) (s : State) : State := finish .done (initEffect k s)

/-- The effect of a START that is not ignored, before its response (R101). -/
def startEffect (c : Nat) (p : Int) (t : Nat) (s : State) : State :=
  setRunning true (updateChannel c (fun _ => startedChannel p t) s)

/-- START (R101). -/
def startOn (k : Config) (c : Nat) (p : Int) (t : Nat) (s : State) : State :=
  perform (startCause k c p t) (startEffect c p t) s

/-- What STOP and SET_OFF do to a channel before the response (R102, R143). -/
def switchOff (c : Nat) (s : State) : State :=
  stopDriverIfIdle (pwmWrite c 0 (deactivate c s))

/-- STOP (R102). -/
def stopOn (k : Config) (c : Nat) (s : State) : State :=
  perform (channelCause k c) (switchOff c) s

/-- IS_RUNNING (R103): the response alone. -/
def isRunningOn (s : State) : State := finish .done s

/-- Meaning of INIT. -/
def execInit (s : State) : Host.Outcome State Fault Refusal := .next (initOn Config.cfg s)

/-- Meaning of START. -/
def execStart (c : Nat) (p : Int) (t : Nat) (s : State) : Host.Outcome State Fault Refusal :=
  .next (startOn Config.cfg c p t s)

/-- Meaning of STOP. -/
def execStop (c : Nat) (s : State) : Host.Outcome State Fault Refusal := .next (stopOn Config.cfg c s)

/-- Meaning of IS_RUNNING. -/
def execIsRunning (s : State) : Host.Outcome State Fault Refusal := .next (isRunningOn s)

end Sys2Proof.Machine
end

