-- ==== Sys2Proof/Machine/FixedPoint.lean ====
section
/-! DEFINITION. The pure functions of the datapath (43_fixed_point.md): they read the configuration only. -/

namespace Sys2Proof.Machine

/-- Perceptual correction: one read of the correction table (R150). -/
def correct (k : Config) (v : Nat) : Nat := corrRead k v

/-- Scaling into the duty unit, product first, then one truncating division (R152). -/
def scale (k : Config) (v : Nat) : Nat := quotient (v * k.DUTY_MAX) k.CORR_MAX

/-- The floor clamp (R153). -/
def clamp1 (d : Nat) : Nat := if d = 0 then 1 else d

/-- Steps 5 and 6 of the tick (R154). -/
def emit (k : Config) (raw : Nat) : Nat := clamp1 (scale k (correct k raw))

/-- The duty of a percentage, product first, then one truncating division, with no correction and no clamp (R156). -/
def percentToDuty (k : Config) (pc : Nat) : Nat := quotient (pc * k.DUTY_MAX) 100

end Sys2Proof.Machine
end

