-- ==== Sys2Proof/Machine/DirectPwm.lean ====
section
/-! DEFINITION. SET_FULL, SET_PERCENT and SET_OFF (42_direct_pwm.md): no table is read, no floor clamp is applied, and
`period`, `phase` and `tbl` are not changed (R141). -/

namespace Sys2Proof.Machine

/-- SET_FULL (R140). -/
def setFullOn (k : Config) (c : Nat) (s : State) : State :=
  perform (channelCause k c) (pwmWrite c k.DUTY_MAX) s

/-- SET_PERCENT (R142). -/
def setPercentOn (k : Config) (c pc : Nat) (s : State) : State :=
  perform (percentCause k c pc) (pwmWrite c (percentToDuty k pc)) s

/-- SET_OFF (R143): one write, then the scan, as STOP. -/
def setOffOn (k : Config) (c : Nat) (s : State) : State :=
  perform (channelCause k c) (switchOff c) s

/-- Meaning of SET_FULL. -/
def execSetFull (c : Nat) (s : State) : Host.Outcome State Fault Refusal := .next (setFullOn Config.cfg c s)

/-- Meaning of SET_PERCENT. -/
def execSetPercent (c pc : Nat) (s : State) : Host.Outcome State Fault Refusal :=
  .next (setPercentOn Config.cfg c pc s)

/-- Meaning of SET_OFF. -/
def execSetOff (c : Nat) (s : State) : Host.Outcome State Fault Refusal := .next (setOffOn Config.cfg c s)

end Sys2Proof.Machine
end

