-- ==== Sys2Proof/Machine/Tick.lean ====
section
/-! DEFINITION. TICK (41_tick.md): the step of one channel in the seven steps of R121, and the loop over all channels. -/

namespace Sys2Proof.Machine

/-- `M = P * TABLE_BASE`, the cycle length in ticks (R121); `P` is 1..32767 for an active channel. -/
def cycleLength (k : Config) (ch : Channel) : Nat := ch.period.toInt.toNat * k.TABLE_BASE

/-- Step 1: ticks per curve sample, the product first (R123). -/
def interval (k : Config) (ch : Channel) : Nat := quotient (cycleLength k ch) k.STEPS

/-- Step 2: the advanced phase (R122). -/
def nextPhase (k : Config) (ch : Channel) : Nat := remainder (ch.phase.toNat + 1) (cycleLength k ch)

/-- Step 3: the curve index of a phase (R123). -/
def curveIndex (k : Config) (ch : Channel) (phase : Nat) : Nat :=
  remainder (quotient phase (interval k ch)) k.STEPS

/-- Step 4: the sample at the advanced phase (R124). -/
def rawSample (k : Config) (ch : Channel) : Nat :=
  curveRead k ch.tbl.toNat (curveIndex k ch (nextPhase k ch))

/-- The record after its tick: only the phase changes (R121). -/
def advanced (k : Config) (ch : Channel) : Channel := { ch with phase := BitVec.ofNat 32 (nextPhase k ch) }

/-- Steps 5 and 6: the duty of the tick (R121, R154). -/
def tickDuty (k : Config) (ch : Channel) : Nat := emit k (rawSample k ch)

/-- `if ch[c].active: tick_channel(c)`, steps 1 to 7 (R120, R121); an inactive channel is not touched. -/
def tickChannel (k : Config) (s : State) (c : Nat) : State :=
  match s.channels[c]? with
  | none => s
  | some ch =>
    if ch.active then pwmWrite c (tickDuty k ch) (updateChannel c (fun _ => advanced k ch) s) else s

/-- The loop of TICK, ascending channels (R120, R125). It does not test `running` (R126). -/
def tickEffect (k : Config) (s : State) : State := (List.range k.C).foldl (tickChannel k) s

/-- TICK as a command word, with its response (R120, R45). -/
def tickOn (k : Config) (s : State) : State := finish .done (tickEffect k s)

/-- TICK as a pulse of `tick_i`: the same effect and no response (R44, R45). -/
def tickPinOn (k : Config) (s : State) : State := { tickEffect k s with outcome := .done }

/-- Meaning of TICK. -/
def execTick (s : State) : Host.Outcome State Fault Refusal := .next (tickOn Config.cfg s)

end Sys2Proof.Machine
end

