-- ==== Sys2Proof/Syntax.lean ====
section
/-! DEFINITION. The eight commands of command set version 1, in the order of the opcode map (30_encoding.md R83), with the
operands of R82 as numbers. -/

namespace Sys2Proof

/-- One constructor per row of the opcode table. `c` is the channel, `p` the period, `t` the curve table, `pc` the percent;
the ranges the word's fields give them are `Instr.wf`. -/
inductive Instr where
  /-- INIT, format Z (R100) -/
  | init
  /-- START c p t, format S (R101) -/
  | start (c : Nat) (p : Int) (t : Nat)
  /-- STOP c, format C (R102) -/
  | stop (c : Nat)
  /-- IS_RUNNING, format Z (R103) -/
  | isRunning
  /-- TICK, format Z (R120); the same event also comes on the pin `tick_i` (R45) -/
  | tick
  /-- SET_FULL c, format C (R140) -/
  | setFull (c : Nat)
  /-- SET_PERCENT c pc, format CA (R142) -/
  | setPercent (c : Nat) (pc : Nat)
  /-- SET_OFF c, format C (R143) -/
  | setOff (c : Nat)
  deriving DecidableEq, Repr

end Sys2Proof
end

