-- ==== Sys2Proof/Machine/Dispatch.lean ====
section
/-! DEFINITION. One arm per command of the opcode map (30_encoding.md R83). -/

namespace Sys2Proof.Machine

def exec (i : Instr) (s : State) : Host.Outcome State Fault Refusal :=
  match i with
  | .init => Sys2Proof.Machine.execInit s
  | .start c p t => Sys2Proof.Machine.execStart c p t s
  | .stop c => Sys2Proof.Machine.execStop c s
  | .isRunning => Sys2Proof.Machine.execIsRunning s
  | .tick => Sys2Proof.Machine.execTick s
  | .setFull c => Sys2Proof.Machine.execSetFull c s
  | .setPercent c pc => Sys2Proof.Machine.execSetPercent c pc s
  | .setOff c => Sys2Proof.Machine.execSetOff c s

end Sys2Proof.Machine
end

