-- ==== Sys2Proof/WellFormed.lean ====
section
/-! DEFINITION. The operand values a command word can carry (30_encoding.md R82): these are the widths of the fields, not the
legal values, which the operations check (R86). -/

namespace Sys2Proof

/-- `chn` is `zext_8`. -/
abbrev ChannelFits (c : Nat) : Prop := c < 256

/-- `period` is `sext_16` of `arg`. -/
abbrev PeriodFits (p : Int) : Prop := -32768 ≤ p ∧ p ≤ 32767

/-- `tbl` is `zext_4`. -/
abbrev TableFits (t : Nat) : Prop := t < 16

/-- `percent` is `zext_16` of `arg`. -/
abbrev PercentFits (pc : Nat) : Prop := pc < 65536

/-- The instruction can be written as a command word (R82). -/
def Instr.wf : Instr → Bool
  | .init => true
  | .start c p t => decide (ChannelFits c) && decide (PeriodFits p) && decide (TableFits t)
  | .stop c => decide (ChannelFits c)
  | .isRunning => true
  | .tick => true
  | .setFull c => decide (ChannelFits c)
  | .setPercent c pc => decide (ChannelFits c) && decide (PercentFits pc)
  | .setOff c => decide (ChannelFits c)

end Sys2Proof
end

