-- ==== Sys2Proof/Decode.lean ====
section
/-! DEFINITION. Decoding of command words (30_encoding.md R86), total on 32-bit words, and the encoder from the same field
layout (R80, R81). A word is one 32-bit value and not bytes (R65), so the decoder takes the word. -/

namespace Sys2Proof

/-- `op = w[31:28]` (R80). -/
def opField (w : Word) : BitVec 4 := w.extractLsb' 28 4

/-- `tbl = w[27:24]` (R80). -/
def tblField (w : Word) : BitVec 4 := w.extractLsb' 24 4

/-- `chn = w[23:16]` (R80). -/
def chnField (w : Word) : BitVec 8 := w.extractLsb' 16 8

/-- `arg = w[15:0]` (R80). -/
def argField (w : Word) : BitVec 16 := w.extractLsb' 0 16

/-- Why a word is reserved (R85); both are ignored alike, with cause `IGN_RESERVED`. -/
inductive Reserved where
  /-- `op` is 0x0 or 0x9 to 0xF -/
  | opcode
  /-- a field that the format leaves unused is not zero (R81) -/
  | fieldNotZero
  deriving DecidableEq, Repr

/-- What a word decodes to. -/
inductive Decoded where
  | instr (i : Instr)
  | reserved (r : Reserved)
  deriving DecidableEq, Repr

/-- A word of a format some of whose fields must be zero (R81). -/
def mustBeZero (zero : Bool) (i : Instr) : Decoded :=
  if zero then .instr i else .reserved .fieldNotZero

/-- Format Z: bits 27:0 are zero. -/
def onlyOp (w : Word) : Bool := tblField w == 0#4 && chnField w == 0#8 && argField w == 0#16

/-- Format C: `tbl` and `arg` are zero. -/
def onlyChn (w : Word) : Bool := tblField w == 0#4 && argField w == 0#16

/-- The decoder of R86, line by line. It looks at the word only; the operand ranges belong to the operations. -/
def decode (w : Word) : Decoded :=
  if opField w = 0x1#4 then mustBeZero (onlyOp w) .init
  else if opField w = 0x2#4 then
    .instr (.start (chnField w).toNat (argField w).toInt (tblField w).toNat)
  else if opField w = 0x3#4 then mustBeZero (onlyChn w) (.stop (chnField w).toNat)
  else if opField w = 0x4#4 then mustBeZero (onlyOp w) .isRunning
  else if opField w = 0x5#4 then mustBeZero (onlyOp w) .tick
  else if opField w = 0x6#4 then mustBeZero (onlyChn w) (.setFull (chnField w).toNat)
  else if opField w = 0x7#4 then
    mustBeZero (tblField w == 0#4) (.setPercent (chnField w).toNat (argField w).toNat)
  else if opField w = 0x8#4 then mustBeZero (onlyChn w) (.setOff (chnField w).toNat)
  else .reserved .opcode

/-- `{op, tbl, chn, arg}` (R80). -/
def assemble (op tbl : BitVec 4) (chn : BitVec 8) (arg : BitVec 16) : Word := op ++ tbl ++ chn ++ arg

/-- The operation code of the opcode map (R83). -/
def Instr.opcode : Instr → BitVec 4
  | .init => 0x1#4
  | .start _ _ _ => 0x2#4
  | .stop _ => 0x3#4
  | .isRunning => 0x4#4
  | .tick => 0x5#4
  | .setFull _ => 0x6#4
  | .setPercent _ _ => 0x7#4
  | .setOff _ => 0x8#4

/-- The word of an instruction, unused fields zero (R81, R82); meant for a well-formed instruction. -/
def encode (i : Instr) : Word :=
  match i with
  | .init => assemble i.opcode 0 0 0
  | .start c p t => assemble i.opcode (BitVec.ofNat 4 t) (BitVec.ofNat 8 c) (BitVec.ofInt 16 p)
  | .stop c => assemble i.opcode 0 (BitVec.ofNat 8 c) 0
  | .isRunning => assemble i.opcode 0 0 0
  | .tick => assemble i.opcode 0 0 0
  | .setFull c => assemble i.opcode 0 (BitVec.ofNat 8 c) 0
  | .setPercent c pc => assemble i.opcode 0 (BitVec.ofNat 8 c) (BitVec.ofNat 16 pc)
  | .setOff c => assemble i.opcode 0 (BitVec.ofNat 8 c) 0

/-- The word a number stands for in the opcode table's numbering: its low `nbits` bits, the rest zero. -/
def tableWord (nbits w : Nat) : Word := BitVec.ofNat 32 (w % 2 ^ nbits)

/-- What the decoder reads from a row of the opcode table. -/
def decodeTableWord (nbits w : Nat) : Option Instr :=
  match decode (tableWord nbits w) with
  | .instr i => some i
  | .reserved _ => none

/-- One row of the opcode map of R83: a word selects it when `(w AND mask) = match`. -/
structure OpcodeRow where
  pattern : Word
  mask : Word
  deriving DecidableEq, Repr

/-- The row of an instruction in the opcode map (R83). -/
def Instr.row : Instr → OpcodeRow
  | .init => ⟨0x10000000#32, 0xFFFFFFFF#32⟩
  | .start _ _ _ => ⟨0x20000000#32, 0xF0000000#32⟩
  | .stop _ => ⟨0x30000000#32, 0xFF00FFFF#32⟩
  | .isRunning => ⟨0x40000000#32, 0xFFFFFFFF#32⟩
  | .tick => ⟨0x50000000#32, 0xFFFFFFFF#32⟩
  | .setFull _ => ⟨0x60000000#32, 0xFF00FFFF#32⟩
  | .setPercent _ _ => ⟨0x70000000#32, 0xFF000000#32⟩
  | .setOff _ => ⟨0x80000000#32, 0xFF00FFFF#32⟩

/-- A word selects a row (R83). -/
abbrev OpcodeRow.Selects (r : OpcodeRow) (w : Word) : Prop := w &&& r.mask = r.pattern

end Sys2Proof
end

