-- ==== Sys2Proof/Machine/Ports.lean ====
section
/-! DEFINITION. The ports (15_interfaces.md): the tick latch, the command port, the arbiter that performs one event at a
time, reset between and during events (70_reset_and_hazards.md), and the step of a machine with any configuration
(00_scope.md R6, R12). -/

namespace Sys2Proof.Machine

/-- The command `i` on a machine with configuration `k` (00_scope.md R12). -/
def commandOn (k : Config) (i : Instr) (s : State) : State :=
  match i with
  | .init => initOn k s
  | .start c p t => startOn k c p t s
  | .stop c => stopOn k c s
  | .isRunning => isRunningOn s
  | .tick => tickOn k s
  | .setFull c => setFullOn k c s
  | .setPercent c pc => setPercentOn k c pc s
  | .setOff c => setOffOn k c s

/-- What performs a decoded command. -/
abbrev Executor := Instr → State → Host.Outcome State Fault Refusal

/-- A pulse on `tick_i` sets the latch; a second one merges with it (R46). -/
def latchTick (s : State) : State := { s with tickPending := true }

/-- The latched tick starts: the latch is cleared and one TICK event is performed, with no response (R46, R44). -/
def performPendingTick (k : Config) (s : State) : State := tickPinOn k { s with tickPending := false }

/-- An accepted word leaves the port, is decoded and performed; a reserved word is ignored (R42, R85). -/
def performWord (run : Executor) (w : Word) (s : State) : Host.Outcome State Fault Refusal :=
  match decode w with
  | .instr i => run i { s with cmdPort := none }
  | .reserved _ => .next (ignoreCommand .ignReserved { s with cmdPort := none })

/-- The block is free: a pending tick is performed first (R47), else the word that waits is accepted (R42), else nothing
happens (R183). -/
def arbitrate (run : Executor) (k : Config) (s : State) : Host.Outcome State Fault Refusal :=
  if s.tickPending then .next (performPendingTick k s)
  else
    match s.cmdPort with
    | some w => performWord run w s
    | none => .next s

/-- A cycle with `rst_i = 1`: the block takes the reset state and the level is 1 (R200). `received` are the PWM writes the sink
has been given until now; what the agents outside present and will do is not the block's to reset (R201, log 6, log 10). -/
def resetBlock (k : Config) (received : List PwmWrite) (s : State) : State :=
  { State.resetOn k with
    beforeReset := s.beforeReset ++ received, rst := true, cmdPort := s.cmdPort, env := s.env }

/-- `rst_i = 1`: a further cycle of reset holds the level, and anything else the environment does waits until `rst_i` has
fallen, which is a step of its own. No word is accepted, no pulse latched and no event performed (R200, log 19). -/
def holdReset (k : Config) (s : State) : State :=
  match s.env with
  | .reset :: rest => resetBlock k s.trace { s with env := rest }
  | _ => { s with rst := false }

/-- `rst_i` rises in the event that takes `s` to `t`, after `n` of its writes: those stay made, the rest are not made, no
response is given (R202). -/
def abandonEvent (k : Config) (n : Nat) (s : State) (o : Host.Outcome State Fault Refusal) :
    Host.Outcome State Fault Refusal :=
  match o with
  | .next t => .next (resetBlock k (t.trace.take (s.trace.length + n)) t)
  | .fault r => .fault r
  | .refused r => .refused r

/-- The host presents `w`. While an earlier word still waits the host holds it stable, so the new one is not presented yet
and the block goes on with what waits (R42, R52). -/
def presentWord (run : Executor) (k : Config) (w : Word) (rest : List Stimulus) (s : State) :
    Host.Outcome State Fault Refusal :=
  match s.cmdPort with
  | none => .next { s with cmdPort := some w, env := rest }
  | some _ => arbitrate run k s

/-- One move of the environment, or one event, while `rst_i = 0`; with no move left the block goes on with what waits (R12,
R43, R52). -/
def stepOutOfReset (run : Executor) (k : Config) (s : State) : Host.Outcome State Fault Refusal :=
  match s.env with
  | [] => arbitrate run k s
  | .free :: rest => arbitrate run k { s with env := rest }
  | .pulse :: rest => .next (latchTick { s with env := rest })
  | .present w :: rest => presentWord run k w rest s
  | .reset :: rest => .next (resetBlock k s.trace { s with env := rest })
  | .resetDuring n :: rest => abandonEvent k n s (arbitrate run k { s with env := rest })

/-- One step: held in reset while `rst_i = 1` (R200), else one move of the environment or one event. -/
def stepWith (run : Executor) (k : Config) (s : State) : Host.Outcome State Fault Refusal :=
  if s.rst then .next (holdReset k s) else stepOutOfReset run k s

/-- The step of a machine with configuration `k`: refused unless `k` is well-formed (00_scope.md R6). -/
def stepOn (k : Config) (s : State) : Host.Outcome State Fault Refusal :=
  if k.WF then stepWith (fun i s => .next (commandOn k i s)) k s else .refused .malformedConfig

/-- The word that the very next step accepts: it stands on the command port, `rst_i` is 0, no tick goes before it, and the
block is free (R42, R47, R200, log 9). -/
def offerWord (w : Word) (s : State) : State :=
  { s with cmdPort := some w, tickPending := false, rst := false, env := .free :: s.env }

end Sys2Proof.Machine
end

