-- ==== Sys2Proof/Machine/Step.lean ====
section
/-! DEFINITION. The step of the machine with the instance's configuration (00_scope.md R12). -/

namespace Sys2Proof.Machine

/-- One step: held in reset, or one move of the environment or one event. -/
def step (s : State) : Host.Outcome State Fault Refusal := stepWith exec Config.cfg s

/-- `s` with the command word `w` where the next step accepts it. -/
def State.withFetchWord (s : State) (nbits w : Nat) : State := offerWord (tableWord nbits w) s

end Sys2Proof.Machine
end

