-- ==== Sys2Proof/Safety.lean ====
section
/-! DEFINITION. The invariants I1 to I4 of 10_state.md R26 and the words in which statements are made. -/

namespace Sys2Proof.Machine

/-- The PWM writes that lead from `s` to `t`, both in one run with no reset between them. -/
def newWrites (s t : State) : List PwmWrite := t.trace.drop s.trace.length

/-- The writes of a list that go to channel `c`. -/
def writesTo (c : Nat) (ws : List PwmWrite) : List PwmWrite := ws.filter (fun w => w.channel == c)

/-- I2 for one record: what holds of it while it is active. -/
structure Breathing (k : Config) (ch : Channel) : Prop where
  period_pos : 1 ≤ ch.period.toInt
  tbl_lt : ch.tbl.toNat < k.T
  phase_lt : ch.phase.toNat < ch.period.toInt.toNat * k.TABLE_BASE

/-- I4 for one record: what holds of it always. -/
structure Stored (k : Config) (ch : Channel) : Prop where
  period_nonneg : 0 ≤ ch.period.toInt
  tbl_lt : ch.tbl.toNat < k.T

/-- I3 for one write of the PWM port. -/
structure LegalWrite (k : Config) (w : PwmWrite) : Prop where
  channel_lt : w.channel < k.C
  duty_le : w.duty ≤ k.DUTY_MAX

/-- The sink after the writes of a trace, in order (R27). -/
def sinkAfter (trace : List PwmWrite) : Memory := trace.foldl (fun m w => m.write w.channel w.duty) []

/-- The last duty a trace writes to a channel (R27). -/
def lastDuty (c : Nat) (trace : List PwmWrite) : Option Nat :=
  ((writesTo c trace).getLast?).map (fun w => w.duty)

/-- The block's own state is that of reset, and nothing has been written or answered since (10_state.md R31). -/
structure BlockIsReset (k : Config) (s : State) : Prop where
  records : s.channels = List.replicate k.C Channel.zero
  running : s.running = false
  tickPending : s.tickPending = false
  sink : ∀ c, s.sink.read c = none
  trace : s.trace = []
  responses : s.responses = []

/-- I1 to I4 of R26, with the number of records (R20), the same bound for the writes before a reset, the sink's shadow being
what the trace wrote (R27), and the block held in the reset state while `rst_i = 1` (70_reset_and_hazards.md R200). -/
structure Inv (k : Config) (s : State) : Prop where
  records : s.channels.length = k.C
  running_eq : s.running = anyActive s
  breathing : ∀ ch ∈ s.channels, ch.active = true → Breathing k ch
  stored : ∀ ch ∈ s.channels, Stored k ch
  legal : ∀ w ∈ s.trace, LegalWrite k w
  legalBefore : ∀ w ∈ s.beforeReset, LegalWrite k w
  sink_eq : s.sink = sinkAfter s.trace
  held : s.rst = true → BlockIsReset k s

/-- What no command touches: the tick latch, the level of `rst_i`, the host's port, the moves to come and the writes before the
last reset. -/
structure SamePorts (s t : State) : Prop where
  tickPending : t.tickPending = s.tickPending
  rst : t.rst = s.rst
  cmdPort : t.cmdPort = s.cmdPort
  env : t.env = s.env
  beforeReset : t.beforeReset = s.beforeReset

/-- An ignored command: nothing changes but the response and the label of the outcome (60_exceptions.md R170). -/
def ignored (cause : Cause) (s : State) : State :=
  { s with responses := s.responses ++ [s.running], outcome := cause }

/-- The states of two runs agree on everything the block can read, whatever the sink, the trace, the responses, the label
and the earlier writes are (10_state.md R27, 60_exceptions.md R173). -/
structure SameBlock (s t : State) : Prop where
  channels : s.channels = t.channels
  running : s.running = t.running
  tickPending : s.tickPending = t.tickPending
  rst : s.rst = t.rst
  cmdPort : s.cmdPort = t.cmdPort
  env : s.env = t.env

/-- `rst_i = 0` and the environment makes no move in this step that the block could notice, so the block is free to go on with
what waits (15_interfaces.md R43; the moves are log 3). -/
structure FreeCycle (s : State) : Prop where
  rst : s.rst = false
  env : s.env = [] ∨ ∃ rest, s.env = .free :: rest

/-- The next step resets the block: `rst_i` is 1 between events, or rises in the middle of one, which needs it to be 0 before
(70_reset_and_hazards.md R200, R202). -/
def resetsNext (s : State) : Bool :=
  match s.env with
  | .reset :: _ => true
  | .resetDuring _ :: _ => !s.rst
  | _ => false

/-- A step from `s` to `t` gives the sink the writes `ws` and the host the responses `bs`; with a reset the trace and the
responses start again, and what the sink was given stays given (15_interfaces.md R44, R50, 70_reset_and_hazards.md R202). -/
structure StepGives (s t : State) (ws : List PwmWrite) (bs : List Bool) : Prop where
  received : t.beforeReset ++ t.trace = s.beforeReset ++ s.trace ++ ws
  trace : t.trace = if resetsNext s then [] else s.trace ++ ws
  responses : t.responses = if resetsNext s then [] else s.responses ++ bs

/-- The PWM sink column of the access table (10_state.md R29): the command may write channel `a`. -/
def mayWriteSink (k : Config) (s : State) (i : Instr) (a : Nat) : Bool :=
  match i with
  | .init => a < k.C
  | .start _ _ _ => false
  | .stop c => a == c
  | .isRunning => false
  | .tick => (s.channels[a]?).any (fun ch => ch.active)
  | .setFull c => a == c
  | .setPercent c _ => a == c
  | .setOff c => a == c

/-- `n` TICK words one after another (41_tick.md R127). -/
def tickTimes (n : Nat) (s : State) : Host.Outcome State Fault Refusal :=
  match n with
  | 0 => .next s
  | n + 1 =>
    match tickTimes n s with
    | .next t => exec .tick t
    | .fault r => .fault r
    | .refused r => .refused r

/-- The duty a channel's tick gives when its phase after the tick is `phase` (41_tick.md R121, R127). -/
def dutyAt (k : Config) (ch : Channel) (phase : Nat) : Nat :=
  emit k (curveRead k ch.tbl.toNat (curveIndex k ch phase))

/-- The writes one TICK makes on the records `chs`, the first of which is channel `c` (41_tick.md R120, R125). -/
def tickWritesFrom (k : Config) (c : Nat) (chs : List Channel) : List PwmWrite :=
  match chs with
  | [] => []
  | ch :: rest =>
    if ch.active then ⟨c, tickDuty k ch⟩ :: tickWritesFrom k (c + 1) rest else tickWritesFrom k (c + 1) rest

/-- A record after one TICK (41_tick.md R120, R121). -/
def tickRecord (k : Config) (ch : Channel) : Channel := if ch.active then advanced k ch else ch

end Sys2Proof.Machine
end

