-- ==== Sys2Proof/Certificates/Slice0/Obligations.lean ====
section
/-! DEFINITION. The statements for the provers, from the numbered rules of spec/. `Config.cfg` is opaque, so each holds for
every well-formed configuration. The fields `responses`, `outcome` and `beforeReset` of State are the model's record of the
response bits (R44), of the outcome label (R171) and of the writes before a reset (R202): logs 4, 5 and 6. The moves of the
environment in `env`, of which `FreeCycle` speaks, are the model's too: log 3; and so is the field `rst` that keeps the level
of `rst_i`: log 19. -/

open Sys2Proof Sys2Proof.Machine

/-! ## Encoding -/

/-- 30_encoding.md section 6: words written out in the spec, for every format, and two reserved ones. -/
def Obligations.SpecWordsDecode : Prop :=
  decode 0x10000000#32 = .instr .init ∧
  decode 0x21010002#32 = .instr (.start 1 2 1) ∧
  decode 0x2000FFFF#32 = .instr (.start 0 (-1) 0) ∧
  decode 0x30030000#32 = .instr (.stop 3) ∧
  decode 0x40000000#32 = .instr .isRunning ∧
  decode 0x50000000#32 = .instr .tick ∧
  decode 0x60020000#32 = .instr (.setFull 2) ∧
  decode 0x70020032#32 = .instr (.setPercent 2 50) ∧
  decode 0x80020000#32 = .instr (.setOff 2) ∧
  decode 0x30000001#32 = .reserved .fieldNotZero ∧
  decode 0x90000000#32 = .reserved .opcode

/-- R83: a word selects a row of the opcode map, `(w AND mask) = match`, exactly when it decodes to an instruction of that
row; so at most one row matches. -/
def Obligations.DecodeSelectsTheOpcodeRow : Prop :=
  ∀ (w : Word) (j : Instr),
    (j.row.Selects w ↔ ∃ i, decode w = .instr i ∧ i.row = j.row) ∧
    ∀ j' : Instr, j.row.Selects w → j'.row.Selects w → j'.row = j.row

/-- R81, R82: no bit of an encoding is dropped, for every instruction and every operand value the fields admit. -/
def Obligations.DecodeOfEncode : Prop :=
  ∀ i : Instr, i.wf = true → decode (encode i) = .instr i

/-- R81, R85, R86: a decoded word is the encoding of its instruction, whose operands fit their fields. -/
def Obligations.EncodeOfDecode : Prop :=
  ∀ (w : Word) (i : Instr), decode w = .instr i → i.wf = true ∧ encode i = w

/-- R85: a word that matches no row is accepted and ignored with cause IGN_RESERVED, and answered: no other state changes and
the sink is not written. These are the words whose `op` is 0x0 or 0x9 to 0xF, or whose format leaves a field unused that is not
zero; the all-zero and the all-ones word are among them. -/
def Obligations.ReservedWordIsIgnored : Prop :=
  (∀ (w : Word) (s : State), (∀ i : Instr, ¬ i.row.Selects w) →
    FreeCycle s → s.tickPending = false → s.cmdPort = some w →
      step s = .next (ignored .ignReserved { s with cmdPort := none, env := s.env.tail })) ∧
  (∀ w : Word, (∀ i : Instr, ¬ i.row.Selects w) ↔
    (opField w).toNat = 0 ∨ 9 ≤ (opField w).toNat ∨
    ((opField w).toNat ∈ [1, 4, 5] ∧ ¬ (tblField w = 0 ∧ chnField w = 0 ∧ argField w = 0)) ∨
    ((opField w).toNat ∈ [3, 6, 8] ∧ ¬ (tblField w = 0 ∧ argField w = 0)) ∨
    ((opField w).toNat = 7 ∧ tblField w ≠ 0)) ∧
  (∀ i : Instr, ¬ i.row.Selects 0x00000000#32 ∧ ¬ i.row.Selects 0xFFFFFFFF#32)

/-! ## The commands -/

/-- R100: INIT zeroes every record and `running`, writes 0 to channels 0..C-1 in ascending order, and answers 0. -/
def Obligations.InitBringsIdleState : Prop :=
  decode 0x10000000#32 = .instr .init ∧
  ∀ s : State, ∃ t, exec .init s = .next t ∧
    t.channels = List.replicate Config.cfg.C ⟨false, 0#16, 0#32, 0#4⟩ ∧
    t.running = false ∧
    t.trace = s.trace ++ (List.range Config.cfg.C).map (fun c => ⟨c, 0⟩) ∧
    (∀ a, t.sink.read a = if a < Config.cfg.C then some 0 else s.sink.read a) ∧
    t.responses = s.responses ++ [false] ∧ t.outcome = .done ∧
    t.rst = s.rst ∧ t.cmdPort = s.cmdPort ∧ t.env = s.env ∧ t.beforeReset = s.beforeReset

/-- R101: START with legal operands makes record c active with the period and table given and phase 0, sets `running`,
writes nothing to the sink and answers 1, every other record keeping its value. An illegal START is ignored, with the first
cause in the order index, period, table. -/
def Obligations.StartBeginsTheCycle : Prop :=
  ∀ (c : Nat) (p : Int) (tb : Nat) (s : State),
    (s.channels.length = Config.cfg.C → c < Config.cfg.C → 1 ≤ p → p ≤ 32767 → tb < Config.cfg.T →
      ∃ t ch, exec (.start c p tb) s = .next t ∧
        t.channels[c]? = some ch ∧ ch.active = true ∧ ch.period.toInt = p ∧ ch.phase.toNat = 0 ∧ ch.tbl.toNat = tb ∧
        (∀ j, j ≠ c → t.channels[j]? = s.channels[j]?) ∧
        t.running = true ∧ t.sink = s.sink ∧ t.trace = s.trace ∧
        t.responses = s.responses ++ [true] ∧ t.outcome = .done ∧ SamePorts s t) ∧
    (Config.cfg.C ≤ c → exec (.start c p tb) s = .next (ignored .ignIndex s)) ∧
    (c < Config.cfg.C → p ≤ 0 → exec (.start c p tb) s = .next (ignored .ignPeriod s)) ∧
    (c < Config.cfg.C → 0 < p → Config.cfg.T ≤ tb → exec (.start c p tb) s = .next (ignored .ignTable s))

/-- R102: STOP deactivates the channel, writes 0 to it, and clears `running` when no channel remains active; the record
keeps its other fields. A TICK after it makes no write to the channel, whose duty stays 0. -/
def Obligations.StopForcesChannelOff : Prop :=
  ∀ (c : Nat) (s : State),
    (c < Config.cfg.C → ∃ t, exec (.stop c) s = .next t ∧
      (∀ j, t.channels[j]? =
        if j = c then (s.channels[j]?).map (fun ch => { ch with active := false }) else s.channels[j]?) ∧
      t.running = (s.running && t.channels.any (fun ch => ch.active)) ∧
      t.trace = s.trace ++ [⟨c, 0⟩] ∧
      (∀ a, t.sink.read a = if a = c then some 0 else s.sink.read a) ∧
      t.responses = s.responses ++ [t.running] ∧ t.outcome = .done ∧ SamePorts s t ∧
      (s.channels.length = Config.cfg.C → ∃ u, exec .tick t = .next u ∧
        writesTo c (newWrites t u) = [] ∧ u.sink.read c = some 0)) ∧
    (Config.cfg.C ≤ c → exec (.stop c) s = .next (ignored .ignIndex s))

/-- R103: IS_RUNNING answers `running` and changes nothing; in a state that meets the invariants the answer says whether
some channel is active. -/
def Obligations.IsRunningAnswersRunning : Prop :=
  decode 0x40000000#32 = .instr .isRunning ∧
  (∀ s : State, exec .isRunning s =
    .next { s with responses := s.responses ++ [s.running], outcome := .done }) ∧
  (∀ s : State, Inv Config.cfg s → ∃ t, exec .isRunning s = .next t ∧
    t.responses = s.responses ++ [s.channels.any (fun ch => ch.active)])

/-- R120: TICK acts on every active channel, makes one write for each, changes no flag, and answers when it came as a word;
an inactive channel is not touched. `tickRecord` and `tickWritesFrom` walk the records once. -/
def Obligations.TickActsOnEveryActiveChannel : Prop :=
  ∀ s : State, s.channels.length = Config.cfg.C → ∃ t, exec .tick s = .next t ∧
    t.channels = s.channels.map (tickRecord Config.cfg) ∧
    newWrites s t = tickWritesFrom Config.cfg 0 s.channels ∧
    t.trace = s.trace ++ newWrites s t ∧
    t.running = s.running ∧
    (newWrites s t).length = (s.channels.filter (fun ch => ch.active)).length ∧
    (∀ a, (s.channels[a]?).any (fun ch => ch.active) = false →
      t.channels[a]? = s.channels[a]? ∧ t.sink.read a = s.sink.read a) ∧
    t.responses = s.responses ++ [s.running] ∧ t.outcome = .done ∧ SamePorts s t

/-- R121: the seven steps of an active channel's tick on plain numbers and tables. -/
def Obligations.TickChannelInSevenSteps : Prop :=
  ∀ (s : State) (c : Nat) (ch : Channel), Inv Config.cfg s → s.channels[c]? = some ch → ch.active = true →
    ∀ M interval phase index raw d duty : Nat,
      M = ch.period.toInt.toNat * Config.cfg.TABLE_BASE →
      interval = M / Config.cfg.STEPS →
      phase = (ch.phase.toNat + 1) % M →
      index = (phase / interval) % Config.cfg.STEPS →
      raw = (Config.cfg.CURVE.getD ch.tbl.toNat []).getD index 0 →
      d = (Config.cfg.CORR.getD raw 0 * Config.cfg.DUTY_MAX) / Config.cfg.CORR_MAX →
      duty = (if d = 0 then 1 else d) →
      ∃ t ch', exec .tick s = .next t ∧
        t.channels[c]? = some ch' ∧ ch'.phase.toNat = phase ∧
        ch'.active = true ∧ ch'.period = ch.period ∧ ch'.tbl = ch.tbl ∧
        writesTo c (newWrites s t) = [⟨c, duty⟩] ∧ t.sink.read c = some duty

/-- R140: SET_FULL writes DUTY_MAX to the channel and nothing else changes but the answer. -/
def Obligations.SetFullWritesDutyMax : Prop :=
  ∀ (c : Nat) (s : State),
    (c < Config.cfg.C → ∃ t, exec (.setFull c) s = .next t ∧
      t.channels = s.channels ∧ t.running = s.running ∧
      t.trace = s.trace ++ [⟨c, Config.cfg.DUTY_MAX⟩] ∧
      (∀ a, t.sink.read a = if a = c then some Config.cfg.DUTY_MAX else s.sink.read a) ∧
      t.responses = s.responses ++ [s.running] ∧ t.outcome = .done ∧ SamePorts s t) ∧
    (Config.cfg.C ≤ c → exec (.setFull c) s = .next (ignored .ignIndex s))

/-- R142, R177: SET_PERCENT writes `(pc * DUTY_MAX) / 100` to the channel, and is ignored for a bad index first, then for a
percent above 100. -/
def Obligations.SetPercentWritesLinearDuty : Prop :=
  ∀ (c pc : Nat) (s : State),
    (c < Config.cfg.C → pc ≤ 100 → ∃ t, exec (.setPercent c pc) s = .next t ∧
      t.channels = s.channels ∧ t.running = s.running ∧
      t.trace = s.trace ++ [⟨c, pc * Config.cfg.DUTY_MAX / 100⟩] ∧
      (∀ a, t.sink.read a = if a = c then some (pc * Config.cfg.DUTY_MAX / 100) else s.sink.read a) ∧
      t.responses = s.responses ++ [s.running] ∧ t.outcome = .done ∧ SamePorts s t) ∧
    (Config.cfg.C ≤ c → exec (.setPercent c pc) s = .next (ignored .ignIndex s)) ∧
    (c < Config.cfg.C → 100 < pc → exec (.setPercent c pc) s = .next (ignored .ignPercent s))

/-- R143: SET_OFF deactivates the channel, makes one write of 0 to it, and clears `running` when no channel remains active. -/
def Obligations.SetOffCancelsBreathing : Prop :=
  ∀ (c : Nat) (s : State),
    (c < Config.cfg.C → ∃ t, exec (.setOff c) s = .next t ∧
      (∀ j, t.channels[j]? =
        if j = c then (s.channels[j]?).map (fun ch => { ch with active := false }) else s.channels[j]?) ∧
      t.running = (s.running && t.channels.any (fun ch => ch.active)) ∧
      t.trace = s.trace ++ [⟨c, 0⟩] ∧
      (∀ a, t.sink.read a = if a = c then some 0 else s.sink.read a) ∧
      t.responses = s.responses ++ [t.running] ∧ t.outcome = .done ∧ SamePorts s t) ∧
    (Config.cfg.C ≤ c → exec (.setOff c) s = .next (ignored .ignIndex s)) ∧
    exec (.setOff c) s = exec (.stop c) s

/-! ## Rules over all commands -/

/-- R44: every accepted word gives exactly one response, the value of `running` in the state it leaves; a tick delivered by
`tick_i` gives none. -/
def Obligations.EveryWordAnswersOnce : Prop :=
  (∀ (w : Word) (s : State), FreeCycle s → s.tickPending = false → s.cmdPort = some w →
    ∃ t, step s = .next t ∧ t.cmdPort = none ∧ t.responses = s.responses ++ [t.running]) ∧
  (∀ s : State, FreeCycle s → s.tickPending = true → ∃ t, step s = .next t ∧ t.responses = s.responses) ∧
  (∀ (i : Instr) (s : State), ∃ t, exec i s = .next t ∧ t.responses = s.responses ++ [t.running])

/-- R170, R171: a command whose outcome is not DONE changes nothing but the response and the label; INIT, IS_RUNNING and
TICK are never ignored. -/
def Obligations.IgnoredCommandChangesNothing : Prop :=
  ∀ (i : Instr) (s t : State), exec i s = .next t →
    (t.outcome ≠ .done →
      t = { s with responses := s.responses ++ [s.running], outcome := t.outcome } ∧
      i ≠ .init ∧ i ≠ .isRunning ∧ i ≠ .tick) ∧
    t.outcome ≠ .ignReserved

/-- R29, R212: the record columns of the access table: only START (and INIT) changes a period or a table, only TICK advances
a phase, only STOP and SET_OFF of that channel clear `active`, only START of that channel sets it. -/
def Obligations.RecordFieldsChangeOnlyByTheirCommands : Prop :=
  ∀ (i : Instr) (s t : State) (j : Nat) (a : Channel), exec i s = .next t → i ≠ .init → s.channels[j]? = some a →
    ∃ b, t.channels[j]? = some b ∧
      ((∀ p tb, i ≠ .start j p tb) →
        b.period = a.period ∧ b.tbl = a.tbl ∧ (b.phase ≠ a.phase → i = .tick ∧ a.active = true) ∧
        (b.active ≠ a.active → a.active = true ∧ (i = .stop j ∨ i = .setOff j)))

/-- R29, R64: the sink column of the access table: a channel that the command does not write keeps its duty. -/
def Obligations.SinkFrame : Prop :=
  ∀ (i : Instr) (s t : State) (a : Nat), s.channels.length = Config.cfg.C → exec i s = .next t →
    mayWriteSink Config.cfg s i a = false → t.sink.read a = s.sink.read a

/-- R25: `running` rises only by a START and falls only by INIT, STOP or SET_OFF when no channel remains active. -/
def Obligations.RunningChangesOnlyByItsCommands : Prop :=
  ∀ (i : Instr) (s t : State), exec i s = .next t → t.running ≠ s.running →
    (t.running = true ∧ ∃ c p tb, i = .start c p tb) ∨
    (t.running = false ∧ anyActive t = false ∧ (i = .init ∨ (∃ c, i = .stop c) ∨ ∃ c, i = .setOff c))

/-- R214, R202: no command touches the tick latch, the level of `rst_i`, the host's port, the environment's moves or the earlier
writes. A pending tick survives a command. -/
def Obligations.PendingTickSurvivesCommands : Prop :=
  ∀ (i : Instr) (s t : State), exec i s = .next t → SamePorts s t

/-- R48: `drv_run_o` rises exactly at a START that is performed while the driver is not running, and falls exactly when a
command leaves no channel active. -/
def Obligations.DriverEdgesFollowTheCommands : Prop :=
  ∀ (i : Instr) (s t : State), Inv Config.cfg s → exec i s = .next t →
    (driverCall s t = some .schedulePeriodic ↔
      (∃ c p tb, i = .start c p tb) ∧ s.running = false ∧ t.outcome = .done) ∧
    (driverCall s t = some .cancelPeriodic ↔ s.running = true ∧ anyActive t = false)

/-- R105: two identical STARTs with no event between them leave the same state as one, but for the second response. -/
def Obligations.StartTwiceIsStartOnce : Prop :=
  ∀ (c : Nat) (p : Int) (tb : Nat) (s : State), ∃ t, exec (.start c p tb) s = .next t ∧
    exec (.start c p tb) t = .next { t with responses := t.responses ++ [t.running] }

/-- R144: SET_FULL and SET_PERCENT hold only until the next TICK on an active channel, and stay on an inactive one. -/
def Obligations.DirectWriteHoldsOnlyWhileInactive : Prop :=
  ∀ (s : State) (c : Nat) (ch : Channel), s.channels.length = Config.cfg.C → s.channels[c]? = some ch →
    (∃ t u, exec (.setFull c) s = .next t ∧ exec .tick t = .next u ∧
      (ch.active = true → u.sink.read c = some (tickDuty Config.cfg ch)) ∧
      (ch.active = false → u.sink.read c = some Config.cfg.DUTY_MAX)) ∧
    ∀ pc, pc ≤ 100 → ∃ t u, exec (.setPercent c pc) s = .next t ∧ exec .tick t = .next u ∧
      (ch.active = true → u.sink.read c = some (tickDuty Config.cfg ch)) ∧
      (ch.active = false → u.sink.read c = some (pc * Config.cfg.DUTY_MAX / 100))

/-! ## The tick -/

/-- R122, R24, R157: with the phase below the cycle length the advance is a compare and clear, and the 32-bit register holds
it. -/
def Obligations.PhaseAdvanceIsCompareAndClear : Prop :=
  ∀ (k : Config) (ch : Channel), k.WF → Breathing k ch →
    (advanced k ch).phase.toNat =
      if ch.phase.toNat + 1 = ch.period.toInt.toNat * k.TABLE_BASE then 0 else ch.phase.toNat + 1

/-- R61, R63: a tick's ROM reads are in range: they give a table entry and no free value. -/
def Obligations.TickReadsAreInRange : Prop :=
  ∀ (k : Config) (ch : Channel), k.WF → Breathing k ch →
    ∃ table raw entry, k.CURVE[ch.tbl.toNat]? = some table ∧
      table[curveIndex k ch (nextPhase k ch)]? = some raw ∧ rawSample k ch = raw ∧
      k.CORR[raw]? = some entry ∧ correct k raw = entry

/-- R129: every PWM write of a TICK has a duty of at least 1, and at most DUTY_MAX. -/
def Obligations.TickNeverWritesZero : Prop :=
  ∀ s : State, Inv Config.cfg s → ∃ t, exec .tick s = .next t ∧
    ∀ w ∈ newWrites s t, 1 ≤ w.duty ∧ w.duty ≤ Config.cfg.DUTY_MAX ∧ w.channel < Config.cfg.C

/-- R126, R26 (I1): a tick delivered while `running` is 0 does nothing at all, but for the response to its word. -/
def Obligations.TickWhileIdleDoesNothing : Prop :=
  ∀ s : State, Inv Config.cfg s → s.running = false →
    exec .tick s = .next { s with responses := s.responses ++ [false], outcome := .done }

/-- R125: the PWM writes of one TICK appear in ascending channel order, and a channel's tick reads and writes only its own
record and its own sink register: two states with the same record for a channel give it the same record, the same write and,
when it is active, the same duty. -/
def Obligations.TickChannelsAscendAndAreIndependent : Prop :=
  (∀ s : State, ∃ t, exec .tick s = .next t ∧ (newWrites s t).Pairwise (fun v w => v.channel < w.channel)) ∧
  ∀ (s s' : State) (c : Nat), s.channels.length = Config.cfg.C → s'.channels.length = Config.cfg.C →
    s.channels[c]? = s'.channels[c]? →
    ∃ t t', exec .tick s = .next t ∧ exec .tick s' = .next t' ∧ t.channels[c]? = t'.channels[c]? ∧
      writesTo c (newWrites s t) = writesTo c (newWrites s' t') ∧
      ((s.channels[c]?).any (fun ch => ch.active) = true → t.sink.read c = t'.sink.read c)

/-- R127: an active channel that receives no command is periodic with period `M = P * TABLE_BASE` ticks: after `n` ticks its
phase is `(phase + n) mod M` and its duty a function of that phase, the same `M` ticks later. -/
def Obligations.BreathingIsPeriodic : Prop :=
  ∀ (s : State) (c : Nat) (ch : Channel) (n M : Nat), Inv Config.cfg s → s.channels[c]? = some ch → ch.active = true →
    M = ch.period.toInt.toNat * Config.cfg.TABLE_BASE →
    ∃ t u, tickTimes n s = .next t ∧ tickTimes (n + M) s = .next u ∧
      t.channels[c]? = some { ch with phase := BitVec.ofNat 32 ((ch.phase.toNat + n) % M) } ∧
      u.channels[c]? = t.channels[c]? ∧
      (1 ≤ n → t.sink.read c = some (dutyAt Config.cfg ch ((ch.phase.toNat + n) % M)) ∧
        u.sink.read c = t.sink.read c)

/-- R123, R128: the index is `phase / interval` for the first `interval * STEPS` phases of a cycle, and for the phases left
over when STEPS does not divide the cycle it starts again at the beginning of the table. -/
def Obligations.IndexWrapsWhenStepsDoNotDivide : Prop :=
  ∀ (k : Config) (ch : Channel) (phase : Nat), k.WF → Breathing k ch → phase < cycleLength k ch →
    (phase < interval k ch * k.STEPS → curveIndex k ch phase = phase / interval k ch) ∧
    (interval k ch * k.STEPS ≤ phase → curveIndex k ch phase = phase / interval k ch - k.STEPS) ∧
    (k.STEPS ∣ cycleLength k ch → interval k ch * k.STEPS = cycleLength k ch)

/-! ## Fixed-point functions, for every well-formed configuration -/

/-- R151: correction is non-decreasing. -/
def Obligations.CorrectIsMonotone : Prop :=
  ∀ (k : Config) (a b : Nat), k.WF → a ≤ b → b < k.N → correct k a ≤ correct k b

/-- R152: the scale is linear and truncating, sends 0 to 0 and full scale to full scale, stays in range, is non-decreasing,
and is the identity when the table is in duty units. -/
def Obligations.ScaleIsLinear : Prop :=
  ∀ k : Config, k.WF →
    (∀ v, scale k v = v * k.DUTY_MAX / k.CORR_MAX) ∧
    scale k 0 = 0 ∧ scale k k.CORR_MAX = k.DUTY_MAX ∧
    (∀ v, v ≤ k.CORR_MAX → scale k v ≤ k.DUTY_MAX) ∧
    (∀ v w, v ≤ w → scale k v ≤ scale k w) ∧
    (k.CORR_MAX = k.DUTY_MAX → ∀ v, scale k v = v)

/-- R153, R155: `emit` is in `1..DUTY_MAX`, non-decreasing, and 1 exactly when `correct(raw) * DUTY_MAX < 2 * CORR_MAX`. -/
def Obligations.EmitRange : Prop :=
  ∀ k : Config, k.WF →
    (∀ raw, raw < k.N → 1 ≤ emit k raw ∧ emit k raw ≤ k.DUTY_MAX ∧
      (emit k raw = 1 ↔ correct k raw * k.DUTY_MAX < 2 * k.CORR_MAX)) ∧
    (∀ a b, a ≤ b → b < k.N → emit k a ≤ emit k b)

/-- R156: percent to duty is linear and truncating, 0 at 0 and DUTY_MAX at 100, non-decreasing and never above DUTY_MAX. -/
def Obligations.PercentToDutyIsLinear : Prop :=
  ∀ k : Config,
    (∀ pc, percentToDuty k pc = pc * k.DUTY_MAX / 100) ∧
    percentToDuty k 0 = 0 ∧ percentToDuty k 100 = k.DUTY_MAX ∧
    (∀ pc, pc ≤ 100 → percentToDuty k pc ≤ k.DUTY_MAX) ∧
    (∀ a b, a ≤ b → percentToDuty k a ≤ percentToDuty k b)

/-- R157: no operation overflows: the bounds of the rule's table, and the 32-bit phase register holds the advanced phase. -/
def Obligations.NothingOverflows : Prop :=
  ∀ k : Config, k.WF →
    (∀ ch, cycleLength k ch ≤ 2147418112) ∧
    (∀ ch, Breathing k ch → ch.phase.toNat + 1 ≤ cycleLength k ch ∧ (advanced k ch).phase.toNat = nextPhase k ch) ∧
    (∀ v, v ≤ k.CORR_MAX → v * k.DUTY_MAX ≤ 4294836225) ∧
    (∀ pc, pc ≤ 100 → pc * k.DUTY_MAX ≤ 6553500)

/-- R158, R210: no divisor is zero. -/
def Obligations.NoDivisorIsZero : Prop :=
  ∀ (k : Config) (ch : Channel), k.WF → Breathing k ch →
    1 ≤ k.STEPS ∧ 1 ≤ cycleLength k ch ∧ 1 ≤ interval k ch ∧ 1 ≤ k.CORR_MAX

/-! ## Ports, reset and the machine's step -/

/-- R42, R43: with `rst_i = 0` and no tick pending the block accepts the waiting word, and the step is `exec` of the decoded instruction on
the state with the word off the port; a free cycle of the environment is used up (the moves as data are logs 3 and 9). -/
def Obligations.StepRunsTheDecodedCommand : Prop :=
  ∀ (s : State) (w : Word) (i : Instr) (rest : List Stimulus),
    s.rst = false → s.tickPending = false → s.cmdPort = some w → decode w = .instr i →
    (s.env = [] → step s = exec i { s with cmdPort := none }) ∧
    (s.env = .free :: rest → step s = exec i { s with cmdPort := none, env := rest })

/-- R45, R47: a pending tick is performed before a waiting word, to which the block is not ready; it clears the latch and has
the effect of the TICK word except for the response. The word goes on waiting and is accepted by the next free step. -/
def Obligations.PendingTickGoesFirst : Prop :=
  ∀ s : State, FreeCycle s → s.tickPending = true →
    cmdReady s = false ∧
    ∃ t u, exec .tick { s with tickPending := false, env := s.env.tail } = .next t ∧ step s = .next u ∧
      u = { t with responses := s.responses } ∧ u.tickPending = false ∧ u.cmdPort = s.cmdPort ∧ u.env = s.env.tail ∧
      (∀ w i, s.cmdPort = some w → decode w = .instr i → FreeCycle u →
        step u = exec i { u with cmdPort := none, env := u.env.tail })

/-- R46, R213: a pulse sets the latch, and a pulse that arrives while it is set is merged: two pulses give the state of one.
The moves as data are log 3. -/
def Obligations.TickPulsesMerge : Prop :=
  ∀ (s : State) (rest : List Stimulus), s.rst = false → s.env = .pulse :: rest →
    ∃ t, step s = .next t ∧ t = { s with tickPending := true, env := rest } ∧
      (∀ rest', rest = .pulse :: rest' → step t = .next { t with env := rest' })

/-- R42: the host's word is held until it is accepted: a further word is not presented while one waits, and the event the
block then performs is the one it would perform without it. The moves as data are log 3. -/
def Obligations.HostWordIsHeld : Prop :=
  ∀ (s : State) (w : Word) (rest : List Stimulus), s.rst = false → s.env = .present w :: rest →
    (s.cmdPort = none → step s = .next { s with cmdPort := some w, env := rest }) ∧
    (∀ v, s.cmdPort = some v → ∃ t u, step s = .next t ∧ step { s with env := [] } = .next u ∧
      t = { u with env := s.env })

/-- R183: with nothing waiting nothing happens, in a free cycle of the environment (log 3) as well. -/
def Obligations.IdleBlockWaits : Prop :=
  ∀ s : State, s.rst = false → s.tickPending = false → s.cmdPort = none →
    (s.env = [] → step s = .next s) ∧
    ∀ rest, s.env = .free :: rest → step s = .next { s with env := rest }

/-- R31, R200, R201: what reset leaves: every record zero, `running` and the latch 0, no sink value known, an empty trace;
and `rst_i` between events leads to it from every state, making no PWM write. That the list of responses is empty at reset is
the model's choice (log 4), and so is the field that keeps the writes made before a reset (log 6). -/
def Obligations.ResetLeavesResetState : Prop :=
  BlockIsReset Config.cfg State.reset ∧
  ∀ (s : State) (rest : List Stimulus), s.env = .reset :: rest →
    ∃ t, step s = .next t ∧ BlockIsReset Config.cfg t ∧ t.beforeReset = s.beforeReset ++ s.trace

/-- R202: a reset in the middle of an event abandons it: the first `n` of its writes stay made, the rest are not made, no
response is given, and the block is in the reset state. -/
def Obligations.ResetDuringEventKeepsAPrefix : Prop :=
  ∀ (s : State) (n : Nat) (rest : List Stimulus), s.rst = false → s.env = .resetDuring n :: rest →
    ∃ t u, step s = .next t ∧ step { s with env := .free :: rest } = .next u ∧
      t.beforeReset = s.beforeReset ++ s.trace ++ (newWrites s u).take n ∧
      BlockIsReset Config.cfg t

/-- R6, R5: a configuration that is not well-formed is refused; a well-formed one is run, without fault or refusal, and the
machine's own step is the one of its configuration. R6 does not list the table sizes that `Config.WF` asks for: they are read
from R5 (log 2). That the machine's configuration is an opaque well-formed record is the model's choice (log 1). -/
def Obligations.MalformedConfigurationIsRefused : Prop :=
  (∀ (k : Config) (s : State), ¬ k.WF → stepOn k s = .refused .malformedConfig) ∧
  (∀ (k : Config) (s : State), k.WF → ∃ t, stepOn k s = .next t) ∧
  (∀ s : State, step s = stepOn Config.cfg s)

/-- R172: no event faults: every step of the machine, from every state, gives a next state. In states outside I2 free values
stand for quotients by zero (log 8); that the type of faults is empty is log 15. -/
def Obligations.EveryStepCompletes : Prop :=
  ∀ s : State, ∃ t, step s = .next t

/-! ## Invariants and isolation -/

/-- R26, R31: I1 to I4 hold at reset, with the other clauses of `Inv`. -/
def Obligations.InvariantsHoldAtReset : Prop := Inv Config.cfg State.reset

/-- R26, R200: I1 to I4 are kept by every step, with every move of the environment, and the block is in the reset state
whenever `rst_i = 1`. -/
def Obligations.InvariantsKeptByEveryStep : Prop :=
  ∀ s t : State, Inv Config.cfg s → step s = .next t → Inv Config.cfg t

/-- R27, R69 (c): what the sink of a channel holds is the last write of the trace to it. -/
def Obligations.SinkHoldsTheLastWrite : Prop :=
  ∀ (s : State) (c : Nat), Inv Config.cfg s → s.sink.read c = lastDuty c s.trace

/-- The sink's list keeps its canonical form (log 7: the form is the model's). -/
def Obligations.SinkStaysCanonical : Prop :=
  ∀ s t : State, s.sink.wf → step s = .next t → t.sink.wf

/-- R27, R173: nothing the block does depends on the sink, the trace, the responses, the outcome label or the writes before a
reset: two states that differ only there make the same writes, give the same answer and stay alike. -/
def Obligations.CommandsReadNoObservation : Prop :=
  ∀ (i : Instr) (s s' : State), SameBlock s s' →
    ∃ t t' ws b, exec i s = .next t ∧ exec i s' = .next t' ∧ SameBlock t t' ∧
      t.trace = s.trace ++ ws ∧ t'.trace = s'.trace ++ ws ∧
      t.responses = s.responses ++ [b] ∧ t'.responses = s'.responses ++ [b] ∧ t.outcome = t'.outcome

/-- R27, R173: the same of a step, with every move of the environment: a command, a tick by the pin, a reserved word, a reset
between events or in one gives the sink the same writes and the host the same responses in both states, and the label is the
same in both or left as it was in both. -/
def Obligations.StepsReadNoObservation : Prop :=
  ∀ s s' : State, SameBlock s s' →
    ∃ t t' ws bs, step s = .next t ∧ step s' = .next t' ∧ SameBlock t t' ∧
      StepGives s t ws bs ∧ StepGives s' t' ws bs ∧
      (t.outcome = t'.outcome ∨ (t.outcome = s.outcome ∧ t'.outcome = s'.outcome))

/-! ## Held in reset -/

/-- R200: in every cycle with `rst_i = 1` the block takes the reset state, whatever it held, and while the level is 1 it is not
ready for a word, its driver output is 0, and it gives no response and makes no write: a waiting word goes on waiting, and no
event is left over when `rst_i` falls. The level as a field and its fall as a step of its own are log 19, the empty list of
responses is log 4, the kept writes log 6, and the word that a reset leaves waiting log 10. -/
def Obligations.ResetHoldsTheBlock : Prop :=
  (∀ s : State, s.rst = true → cmdReady s = false) ∧
  (∀ (s : State) (rest : List Stimulus), s.env = .reset :: rest →
    ∃ t, step s = .next t ∧ t.rst = true ∧ cmdReady t = false ∧ drvRun t = false ∧ BlockIsReset Config.cfg t ∧
      t.cmdPort = s.cmdPort ∧ t.beforeReset = s.beforeReset ++ s.trace) ∧
  (∀ (s : State) (n : Nat) (rest : List Stimulus), s.rst = false → s.env = .resetDuring n :: rest →
    ∃ t, step s = .next t ∧ t.rst = true ∧ cmdReady t = false ∧ drvRun t = false) ∧
  (∀ s : State, Inv Config.cfg s → s.rst = true → (∀ rest, s.env ≠ .reset :: rest) →
    ∃ t, step s = .next t ∧ t = { s with rst := false } ∧ BlockIsReset Config.cfg t ∧ cmdReady t = true)
end

