-- ==== Sys2Proof/Laws/Config.lean ====
section
/-! SUPPORT. What is known of a well-formed configuration (00_scope.md R6), and that the instance's own record is one. -/

namespace Sys2Proof

theorem Config.cfg_wf : Config.cfg.WF := Config.chosen.wf

section
variable {k : Config} (h : k.WF)
include h

theorem Config.WF.sized : k.Sized := h.1
theorem Config.WF.channels_pos : 1 ≤ k.C := h.2.1.1
theorem Config.WF.channels_le : k.C ≤ 256 := h.2.1.2
theorem Config.WF.tables_pos : 1 ≤ k.T := h.2.2.1.1
theorem Config.WF.tables_le : k.T ≤ 16 := h.2.2.1.2
theorem Config.WF.steps_pos : 1 ≤ k.STEPS := h.2.2.2.1.1
theorem Config.WF.steps_le_base : k.STEPS ≤ k.TABLE_BASE := h.2.2.2.1.2.1
theorem Config.WF.base_le : k.TABLE_BASE ≤ 65536 := h.2.2.2.1.2.2
theorem Config.WF.entries_pos : 1 ≤ k.N := h.2.2.2.2.1.1
theorem Config.WF.sample_le : ∀ table ∈ k.CURVE, ∀ v ∈ table, v ≤ k.N - 1 := h.2.2.2.2.1.2.2
theorem Config.WF.rising : k.W5 := h.2.2.2.2.2.1
theorem Config.WF.corr_max_pos : 1 ≤ k.CORR_MAX := h.2.2.2.2.2.2.1.1
theorem Config.WF.corr_max_le : k.CORR_MAX ≤ 65535 := h.2.2.2.2.2.2.1.2.1
theorem Config.WF.entry_le : ∀ v ∈ k.CORR, v ≤ k.CORR_MAX := h.2.2.2.2.2.2.1.2.2
theorem Config.WF.duty_max_pos : 1 ≤ k.DUTY_MAX := h.2.2.2.2.2.2.2.1
theorem Config.WF.duty_max_le : k.DUTY_MAX ≤ 65535 := h.2.2.2.2.2.2.2.2

theorem Config.WF.base_pos : 1 ≤ k.TABLE_BASE := Nat.le_trans h.steps_pos h.steps_le_base

end

end Sys2Proof
end

