-- ==== Sys2Proof/Laws/State.lean ====
section
/-! SUPPORT. One lemma per field per update of the state, so that no proof unfolds a record update. -/

namespace Sys2Proof.Machine

section
variable (c : Nat) (f : Channel → Channel) (s : State)

@[simp] theorem updateChannel_channels : (updateChannel c f s).channels = s.channels.modify c f := rfl
@[simp] theorem updateChannel_running : (updateChannel c f s).running = s.running := rfl
@[simp] theorem updateChannel_tickPending : (updateChannel c f s).tickPending = s.tickPending := rfl
@[simp] theorem updateChannel_sink : (updateChannel c f s).sink = s.sink := rfl
@[simp] theorem updateChannel_trace : (updateChannel c f s).trace = s.trace := rfl
@[simp] theorem updateChannel_responses : (updateChannel c f s).responses = s.responses := rfl
@[simp] theorem updateChannel_outcome : (updateChannel c f s).outcome = s.outcome := rfl
@[simp] theorem updateChannel_beforeReset : (updateChannel c f s).beforeReset = s.beforeReset := rfl
@[simp] theorem updateChannel_rst : (updateChannel c f s).rst = s.rst := rfl
@[simp] theorem updateChannel_cmdPort : (updateChannel c f s).cmdPort = s.cmdPort := rfl
@[simp] theorem updateChannel_env : (updateChannel c f s).env = s.env := rfl

end

section
variable (b : Bool) (s : State)

@[simp] theorem setRunning_channels : (setRunning b s).channels = s.channels := rfl
@[simp] theorem setRunning_running : (setRunning b s).running = b := rfl
@[simp] theorem setRunning_tickPending : (setRunning b s).tickPending = s.tickPending := rfl
@[simp] theorem setRunning_sink : (setRunning b s).sink = s.sink := rfl
@[simp] theorem setRunning_trace : (setRunning b s).trace = s.trace := rfl
@[simp] theorem setRunning_responses : (setRunning b s).responses = s.responses := rfl
@[simp] theorem setRunning_outcome : (setRunning b s).outcome = s.outcome := rfl
@[simp] theorem setRunning_beforeReset : (setRunning b s).beforeReset = s.beforeReset := rfl
@[simp] theorem setRunning_rst : (setRunning b s).rst = s.rst := rfl
@[simp] theorem setRunning_cmdPort : (setRunning b s).cmdPort = s.cmdPort := rfl
@[simp] theorem setRunning_env : (setRunning b s).env = s.env := rfl

end

section
variable (c d : Nat) (s : State)

@[simp] theorem pwmWrite_channels : (pwmWrite c d s).channels = s.channels := rfl
@[simp] theorem pwmWrite_running : (pwmWrite c d s).running = s.running := rfl
@[simp] theorem pwmWrite_tickPending : (pwmWrite c d s).tickPending = s.tickPending := rfl
@[simp] theorem pwmWrite_sink : (pwmWrite c d s).sink = s.sink.write c d := rfl
@[simp] theorem pwmWrite_trace : (pwmWrite c d s).trace = s.trace ++ [⟨c, d⟩] := rfl
@[simp] theorem pwmWrite_responses : (pwmWrite c d s).responses = s.responses := rfl
@[simp] theorem pwmWrite_outcome : (pwmWrite c d s).outcome = s.outcome := rfl
@[simp] theorem pwmWrite_beforeReset : (pwmWrite c d s).beforeReset = s.beforeReset := rfl
@[simp] theorem pwmWrite_rst : (pwmWrite c d s).rst = s.rst := rfl
@[simp] theorem pwmWrite_cmdPort : (pwmWrite c d s).cmdPort = s.cmdPort := rfl
@[simp] theorem pwmWrite_env : (pwmWrite c d s).env = s.env := rfl

end

section
variable (o : Cause) (s : State)

@[simp] theorem finish_channels : (finish o s).channels = s.channels := rfl
@[simp] theorem finish_running : (finish o s).running = s.running := rfl
@[simp] theorem finish_tickPending : (finish o s).tickPending = s.tickPending := rfl
@[simp] theorem finish_sink : (finish o s).sink = s.sink := rfl
@[simp] theorem finish_trace : (finish o s).trace = s.trace := rfl
@[simp] theorem finish_responses : (finish o s).responses = s.responses ++ [s.running] := rfl
@[simp] theorem finish_outcome : (finish o s).outcome = o := rfl
@[simp] theorem finish_beforeReset : (finish o s).beforeReset = s.beforeReset := rfl
@[simp] theorem finish_rst : (finish o s).rst = s.rst := rfl
@[simp] theorem finish_cmdPort : (finish o s).cmdPort = s.cmdPort := rfl
@[simp] theorem finish_env : (finish o s).env = s.env := rfl

end

section
variable (o : Cause) (s : State)

@[simp] theorem ignoreCommand_channels : (ignoreCommand o s).channels = s.channels := rfl
@[simp] theorem ignoreCommand_running : (ignoreCommand o s).running = s.running := rfl
@[simp] theorem ignoreCommand_tickPending : (ignoreCommand o s).tickPending = s.tickPending := rfl
@[simp] theorem ignoreCommand_sink : (ignoreCommand o s).sink = s.sink := rfl
@[simp] theorem ignoreCommand_trace : (ignoreCommand o s).trace = s.trace := rfl
@[simp] theorem ignoreCommand_responses : (ignoreCommand o s).responses = s.responses ++ [s.running] := rfl
@[simp] theorem ignoreCommand_outcome : (ignoreCommand o s).outcome = o := rfl
@[simp] theorem ignoreCommand_beforeReset : (ignoreCommand o s).beforeReset = s.beforeReset := rfl
@[simp] theorem ignoreCommand_rst : (ignoreCommand o s).rst = s.rst := rfl
@[simp] theorem ignoreCommand_cmdPort : (ignoreCommand o s).cmdPort = s.cmdPort := rfl
@[simp] theorem ignoreCommand_env : (ignoreCommand o s).env = s.env := rfl

end

section
variable (s : State)

@[simp] theorem latchTick_channels : (latchTick s).channels = s.channels := rfl
@[simp] theorem latchTick_running : (latchTick s).running = s.running := rfl
@[simp] theorem latchTick_tickPending : (latchTick s).tickPending = true := rfl
@[simp] theorem latchTick_sink : (latchTick s).sink = s.sink := rfl
@[simp] theorem latchTick_trace : (latchTick s).trace = s.trace := rfl
@[simp] theorem latchTick_responses : (latchTick s).responses = s.responses := rfl
@[simp] theorem latchTick_outcome : (latchTick s).outcome = s.outcome := rfl
@[simp] theorem latchTick_beforeReset : (latchTick s).beforeReset = s.beforeReset := rfl
@[simp] theorem latchTick_rst : (latchTick s).rst = s.rst := rfl
@[simp] theorem latchTick_cmdPort : (latchTick s).cmdPort = s.cmdPort := rfl
@[simp] theorem latchTick_env : (latchTick s).env = s.env := rfl

end

section
variable (c : Nat) (s : State)

@[simp] theorem deactivate_channels : (deactivate c s).channels = s.channels.modify c (fun ch => { ch with active := false }) := rfl
@[simp] theorem deactivate_running : (deactivate c s).running = s.running := rfl
@[simp] theorem deactivate_tickPending : (deactivate c s).tickPending = s.tickPending := rfl
@[simp] theorem deactivate_sink : (deactivate c s).sink = s.sink := rfl
@[simp] theorem deactivate_trace : (deactivate c s).trace = s.trace := rfl
@[simp] theorem deactivate_responses : (deactivate c s).responses = s.responses := rfl
@[simp] theorem deactivate_outcome : (deactivate c s).outcome = s.outcome := rfl
@[simp] theorem deactivate_beforeReset : (deactivate c s).beforeReset = s.beforeReset := rfl
@[simp] theorem deactivate_rst : (deactivate c s).rst = s.rst := rfl
@[simp] theorem deactivate_cmdPort : (deactivate c s).cmdPort = s.cmdPort := rfl
@[simp] theorem deactivate_env : (deactivate c s).env = s.env := rfl

end

section
variable (c : Nat) (p : Int) (t : Nat) (s : State)

@[simp] theorem startEffect_channels : (startEffect c p t s).channels = s.channels.modify c (fun _ => startedChannel p t) := rfl
@[simp] theorem startEffect_running : (startEffect c p t s).running = true := rfl
@[simp] theorem startEffect_tickPending : (startEffect c p t s).tickPending = s.tickPending := rfl
@[simp] theorem startEffect_sink : (startEffect c p t s).sink = s.sink := rfl
@[simp] theorem startEffect_trace : (startEffect c p t s).trace = s.trace := rfl
@[simp] theorem startEffect_responses : (startEffect c p t s).responses = s.responses := rfl
@[simp] theorem startEffect_outcome : (startEffect c p t s).outcome = s.outcome := rfl
@[simp] theorem startEffect_beforeReset : (startEffect c p t s).beforeReset = s.beforeReset := rfl
@[simp] theorem startEffect_rst : (startEffect c p t s).rst = s.rst := rfl
@[simp] theorem startEffect_cmdPort : (startEffect c p t s).cmdPort = s.cmdPort := rfl
@[simp] theorem startEffect_env : (startEffect c p t s).env = s.env := rfl

end

section
variable (w : Word) (s : State)

@[simp] theorem offerWord_channels : (offerWord w s).channels = s.channels := rfl
@[simp] theorem offerWord_running : (offerWord w s).running = s.running := rfl
@[simp] theorem offerWord_tickPending : (offerWord w s).tickPending = false := rfl
@[simp] theorem offerWord_sink : (offerWord w s).sink = s.sink := rfl
@[simp] theorem offerWord_trace : (offerWord w s).trace = s.trace := rfl
@[simp] theorem offerWord_responses : (offerWord w s).responses = s.responses := rfl
@[simp] theorem offerWord_outcome : (offerWord w s).outcome = s.outcome := rfl
@[simp] theorem offerWord_beforeReset : (offerWord w s).beforeReset = s.beforeReset := rfl
@[simp] theorem offerWord_rst : (offerWord w s).rst = false := rfl
@[simp] theorem offerWord_cmdPort : (offerWord w s).cmdPort = some w := rfl
@[simp] theorem offerWord_env : (offerWord w s).env = .free :: s.env := rfl

end

section
variable (k : Config) (received : List PwmWrite) (s : State)

@[simp] theorem resetBlock_channels : (resetBlock k received s).channels = List.replicate k.C Channel.zero := rfl
@[simp] theorem resetBlock_running : (resetBlock k received s).running = false := rfl
@[simp] theorem resetBlock_tickPending : (resetBlock k received s).tickPending = false := rfl
@[simp] theorem resetBlock_sink : (resetBlock k received s).sink = [] := rfl
@[simp] theorem resetBlock_trace : (resetBlock k received s).trace = [] := rfl
@[simp] theorem resetBlock_responses : (resetBlock k received s).responses = [] := rfl
@[simp] theorem resetBlock_outcome : (resetBlock k received s).outcome = .done := rfl
@[simp] theorem resetBlock_beforeReset : (resetBlock k received s).beforeReset = s.beforeReset ++ received := rfl
@[simp] theorem resetBlock_rst : (resetBlock k received s).rst = true := rfl
@[simp] theorem resetBlock_cmdPort : (resetBlock k received s).cmdPort = s.cmdPort := rfl
@[simp] theorem resetBlock_env : (resetBlock k received s).env = s.env := rfl

end

end Sys2Proof.Machine
end

