-- ==== Sys2Proof/Laws/Ops.lean ====
section
/-! SUPPORT. What each shared operation does: the sink's reads and writes, the ROM reads, division, and the frame of a
command word. -/

namespace Sys2Proof.Machine

/-! The PWM sink -/

@[simp] theorem Memory.read_nil (a : Nat) : Memory.read [] a = none := rfl

theorem Memory.read_write (m : Memory) (c d a : Nat) :
    (m.write c d).read a = if a = c then some d else m.read a := by
  induction m with
  | nil => rfl
  | cons x rest ih =>
    obtain ⟨k, e⟩ := x
    simp only [Memory.write]
    split
    · simp only [Memory.read]
    · split
      · subst_vars
        simp only [Memory.read]
        split <;> simp_all
      · simp only [Memory.read, ih]
        grind

@[simp] theorem Memory.read_write_same (m : Memory) (c d : Nat) : (m.write c d).read c = some d := by
  simp [Memory.read_write]

theorem Memory.read_write_other {m : Memory} {c a : Nat} (d : Nat) (h : a ≠ c) :
    (m.write c d).read a = m.read a := by
  simp [Memory.read_write, h]

theorem Memory.mem_write {m : Memory} {c d : Nat} {x : Nat × Nat} (h : x ∈ m.write c d) :
    x = (c, d) ∨ x ∈ m := by
  induction m with
  | nil => simpa [Memory.write] using h
  | cons y rest ih =>
    obtain ⟨k, e⟩ := y
    simp only [Memory.write] at h
    split at h
    · simpa using h
    · split at h <;> simp at h ⊢ <;> grind

/-- A write keeps the canonical form. -/
theorem Memory.write_wf {m : Memory} (h : m.wf) (c d : Nat) : (m.write c d).wf := by
  induction m with
  | nil => simp [Memory.write]
  | cons x rest ih =>
    obtain ⟨k, e⟩ := x
    obtain ⟨hk, hrest⟩ := List.pairwise_cons.1 h
    simp only [Memory.write]
    split
    · exact List.pairwise_cons.2 ⟨by simp; grind, h⟩
    · split
      · subst_vars; exact List.pairwise_cons.2 ⟨hk, hrest⟩
      · refine List.pairwise_cons.2 ⟨fun y hy => ?_, ih hrest⟩
        rcases Memory.mem_write hy with rfl | hy
        · simp; omega
        · exact hk y hy

theorem reset_sink_wf : State.reset.sink.wf := List.Pairwise.nil

theorem sinkAfter_append (tr : List PwmWrite) (w : PwmWrite) :
    sinkAfter (tr ++ [w]) = (sinkAfter tr).write w.channel w.duty := by
  simp [sinkAfter]

/-- What a list of writes leaves in the sink: the last write to the channel, or what was there before. -/
theorem read_writes (ws : List PwmWrite) (m : Memory) (a : Nat) :
    (ws.foldl (fun m w => m.write w.channel w.duty) m).read a = (lastDuty a ws).or (m.read a) := by
  induction ws using List.reverseRecOn with
  | nil => simp [lastDuty, writesTo]
  | append_singleton ws w ih =>
    simp only [lastDuty] at ih
    simp only [List.foldl_append, List.foldl_cons, List.foldl_nil, Memory.read_write, ih, lastDuty, writesTo,
      List.filter_append]
    by_cases h : w.channel = a
    · simp [h]
    · simp [h, Ne.symm h]

/-! Division and the ROMs -/

theorem quotient_of_pos {a b : Nat} (h : 0 < b) : quotient a b = a / b := by
  simp [quotient, Nat.pos_iff_ne_zero.1 h]

theorem remainder_of_pos {a b : Nat} (h : 0 < b) : remainder a b = a % b := by
  simp [remainder, Nat.pos_iff_ne_zero.1 h]

/-- In range the correction ROM gives its entry. -/
theorem corrRead_of_lt {k : Config} {v : Nat} (h : v < k.CORR.length) : corrRead k v = k.CORR[v] := by
  simp [corrRead, List.getElem?_eq_getElem h]

/-- In range the curve ROM gives its sample. -/
theorem curveRead_of_lt {k : Config} {t i : Nat} (ht : t < k.CURVE.length) (hi : i < k.CURVE[t].length) :
    curveRead k t i = k.CURVE[t][i] := by
  simp [curveRead, List.getElem?_eq_getElem ht, List.getElem?_eq_getElem hi]

/-! The frame of a command word -/

/-- A command that no cause stops is performed and answered. -/
theorem perform_done {f : State → State} (s : State) : perform .done f s = finish .done (f s) := rfl

/-- A command that a cause stops leaves everything but the response and the label. -/
theorem perform_ignored {cause : Cause} {f : State → State} {s : State} (h : cause ≠ .done) :
    perform cause f s = ignored cause s := by
  simp only [perform, h, if_false]; rfl

/-- All that a command word can do: it is performed and answered, or a cause stops it. -/
theorem perform_cases (cause : Cause) (f : State → State) (s : State) :
    (cause = .done ∧ perform cause f s = finish .done (f s)) ∨
    (cause ≠ .done ∧ perform cause f s = ignored cause s) := by
  by_cases h : cause = .done
  · left; subst h; exact ⟨rfl, rfl⟩
  · right; exact ⟨h, perform_ignored h⟩

theorem startCause_legal {k : Config} {c t : Nat} {p : Int} (hc : c < k.C) (hp : 0 < p) (ht : t < k.T) :
    startCause k c p t = .done := by
  simp [startCause, hc, hp, ht]

theorem channelCause_legal {k : Config} {c : Nat} (hc : c < k.C) : channelCause k c = .done := by
  simp [channelCause, hc]

theorem channelCause_illegal {k : Config} {c : Nat} (hc : ¬ c < k.C) : channelCause k c = .ignIndex := by
  simp [channelCause, hc]

theorem percentCause_legal {k : Config} {c pc : Nat} (hc : c < k.C) (hp : pc ≤ 100) :
    percentCause k c pc = .done := by
  simp [percentCause, hc, hp]

/-- `exec` is the command on the instance's own configuration. -/
theorem exec_eq (i : Instr) (s : State) : exec i s = .next (commandOn Config.cfg i s) := by
  cases i <;> rfl

end Sys2Proof.Machine
end

