-- ==== Sys2Proof/Laws/Effects.lean ====
section
/-! SUPPORT. The effects of the commands field by field: the scan, the loop of INIT and the loop of TICK. -/

namespace Sys2Proof.Machine

/-! The scan of STOP and SET_OFF -/

section
variable (s : State)

@[simp] theorem stopDriverIfIdle_running : (stopDriverIfIdle s).running = (s.running && anyActive s) := by
  unfold stopDriverIfIdle; split <;> simp_all

@[simp] theorem stopDriverIfIdle_channels : (stopDriverIfIdle s).channels = s.channels := by
  unfold stopDriverIfIdle; split <;> rfl
@[simp] theorem stopDriverIfIdle_tickPending : (stopDriverIfIdle s).tickPending = s.tickPending := by
  unfold stopDriverIfIdle; split <;> rfl
@[simp] theorem stopDriverIfIdle_sink : (stopDriverIfIdle s).sink = s.sink := by
  unfold stopDriverIfIdle; split <;> rfl
@[simp] theorem stopDriverIfIdle_trace : (stopDriverIfIdle s).trace = s.trace := by
  unfold stopDriverIfIdle; split <;> rfl
@[simp] theorem stopDriverIfIdle_responses : (stopDriverIfIdle s).responses = s.responses := by
  unfold stopDriverIfIdle; split <;> rfl
@[simp] theorem stopDriverIfIdle_outcome : (stopDriverIfIdle s).outcome = s.outcome := by
  unfold stopDriverIfIdle; split <;> rfl
@[simp] theorem stopDriverIfIdle_beforeReset : (stopDriverIfIdle s).beforeReset = s.beforeReset := by
  unfold stopDriverIfIdle; split <;> rfl
@[simp] theorem stopDriverIfIdle_rst : (stopDriverIfIdle s).rst = s.rst := by
  unfold stopDriverIfIdle; split <;> rfl
@[simp] theorem stopDriverIfIdle_cmdPort : (stopDriverIfIdle s).cmdPort = s.cmdPort := by
  unfold stopDriverIfIdle; split <;> rfl
@[simp] theorem stopDriverIfIdle_env : (stopDriverIfIdle s).env = s.env := by
  unfold stopDriverIfIdle; split <;> rfl

end

/-- `any` looks at the records only. -/
theorem anyActive_congr {s t : State} (h : s.channels = t.channels) : anyActive s = anyActive t := by
  simp [anyActive, h]

/-! What a loop over channels keeps -/

/-- What every round of a loop keeps, the loop keeps. -/
theorem foldl_keeps {α β : Type} (g : State → α) (f : State → β → State) (h : ∀ s c, g (f s c) = g s)
    (l : List β) (s : State) : g (l.foldl f s) = g s := by
  induction l generalizing s with
  | nil => rfl
  | cons c rest ih => rw [List.foldl_cons, ih, h]

/-- What the PWM writes keep, the loop of INIT keeps. -/
theorem allChannelsOff_keeps {α : Type} (g : State → α) (hw : ∀ c d s, g (pwmWrite c d s) = g s)
    (n : Nat) (s : State) : g (allChannelsOff n s) = g s :=
  foldl_keeps g (fun s c => pwmWrite c 0 s) (fun s c => hw c 0 s) (List.range n) s

/-- The loop of INIT writes the sink and the trace only; this is its trace. -/
theorem allChannelsOff_trace (n : Nat) (s : State) :
    (allChannelsOff n s).trace = s.trace ++ (List.range n).map (fun c => ⟨c, 0⟩) := by
  induction n with
  | zero => simp [allChannelsOff]
  | succ n ih =>
    simp only [allChannelsOff, List.range_succ, List.foldl_append, List.foldl_cons, List.foldl_nil, List.map_append,
      List.map_cons, List.map_nil, pwmWrite_trace, ← List.append_assoc] at ih ⊢
    rw [ih]

/-- The sink after the loop of INIT. -/
theorem allChannelsOff_read (n : Nat) (s : State) (a : Nat) :
    (allChannelsOff n s).sink.read a = if a < n then some 0 else s.sink.read a := by
  induction n with
  | zero => simp [allChannelsOff]
  | succ n ih =>
    simp only [allChannelsOff, List.range_succ, List.foldl_append, List.foldl_cons, List.foldl_nil,
      pwmWrite_sink, Memory.read_write] at ih ⊢
    rw [ih]
    grind

section
variable (n : Nat) (s : State)

@[simp] theorem allChannelsOff_channels : (allChannelsOff n s).channels = s.channels :=
  allChannelsOff_keeps State.channels (fun _ _ _ => rfl) n s
@[simp] theorem allChannelsOff_running : (allChannelsOff n s).running = s.running :=
  allChannelsOff_keeps State.running (fun _ _ _ => rfl) n s
@[simp] theorem allChannelsOff_tickPending : (allChannelsOff n s).tickPending = s.tickPending :=
  allChannelsOff_keeps State.tickPending (fun _ _ _ => rfl) n s
@[simp] theorem allChannelsOff_responses : (allChannelsOff n s).responses = s.responses :=
  allChannelsOff_keeps State.responses (fun _ _ _ => rfl) n s
@[simp] theorem allChannelsOff_outcome : (allChannelsOff n s).outcome = s.outcome :=
  allChannelsOff_keeps State.outcome (fun _ _ _ => rfl) n s
@[simp] theorem allChannelsOff_beforeReset : (allChannelsOff n s).beforeReset = s.beforeReset :=
  allChannelsOff_keeps State.beforeReset (fun _ _ _ => rfl) n s
@[simp] theorem allChannelsOff_rst : (allChannelsOff n s).rst = s.rst :=
  allChannelsOff_keeps State.rst (fun _ _ _ => rfl) n s
@[simp] theorem allChannelsOff_cmdPort : (allChannelsOff n s).cmdPort = s.cmdPort :=
  allChannelsOff_keeps State.cmdPort (fun _ _ _ => rfl) n s
@[simp] theorem allChannelsOff_env : (allChannelsOff n s).env = s.env :=
  allChannelsOff_keeps State.env (fun _ _ _ => rfl) n s

end

/-! The step of one channel -/

/-- All that one channel's part of TICK can do. -/
theorem tickChannel_cases (k : Config) (s : State) (c : Nat) :
    (tickChannel k s c = s ∧ ∀ ch, s.channels[c]? = some ch → ch.active = false) ∨
    ∃ ch, s.channels[c]? = some ch ∧ ch.active = true ∧
      tickChannel k s c = pwmWrite c (tickDuty k ch) (updateChannel c (fun _ => advanced k ch) s) := by
  unfold tickChannel
  split
  · left; simp_all
  · split
    · right; exact ⟨_, by assumption, by assumption, rfl⟩
    · left; simp_all

/-- What the update of records and the PWM writes keep, the loop of TICK keeps. -/
theorem tickEffect_keeps {α : Type} (g : State → α) (hu : ∀ c f s, g (updateChannel c f s) = g s)
    (hw : ∀ c d s, g (pwmWrite c d s) = g s) (k : Config) (s : State) : g (tickEffect k s) = g s := by
  refine foldl_keeps g _ (fun s c => ?_) _ _
  rcases tickChannel_cases k s c with ⟨h, -⟩ | ⟨ch, -, -, h⟩ <;> rw [h]
  rw [hw, hu]

section
variable (k : Config) (s : State)

@[simp] theorem tickEffect_running : (tickEffect k s).running = s.running :=
  tickEffect_keeps State.running (fun _ _ _ => rfl) (fun _ _ _ => rfl) k s
@[simp] theorem tickEffect_tickPending : (tickEffect k s).tickPending = s.tickPending :=
  tickEffect_keeps State.tickPending (fun _ _ _ => rfl) (fun _ _ _ => rfl) k s
@[simp] theorem tickEffect_responses : (tickEffect k s).responses = s.responses :=
  tickEffect_keeps State.responses (fun _ _ _ => rfl) (fun _ _ _ => rfl) k s
@[simp] theorem tickEffect_outcome : (tickEffect k s).outcome = s.outcome :=
  tickEffect_keeps State.outcome (fun _ _ _ => rfl) (fun _ _ _ => rfl) k s
@[simp] theorem tickEffect_beforeReset : (tickEffect k s).beforeReset = s.beforeReset :=
  tickEffect_keeps State.beforeReset (fun _ _ _ => rfl) (fun _ _ _ => rfl) k s
@[simp] theorem tickEffect_rst : (tickEffect k s).rst = s.rst :=
  tickEffect_keeps State.rst (fun _ _ _ => rfl) (fun _ _ _ => rfl) k s
@[simp] theorem tickEffect_cmdPort : (tickEffect k s).cmdPort = s.cmdPort :=
  tickEffect_keeps State.cmdPort (fun _ _ _ => rfl) (fun _ _ _ => rfl) k s
@[simp] theorem tickEffect_env : (tickEffect k s).env = s.env :=
  tickEffect_keeps State.env (fun _ _ _ => rfl) (fun _ _ _ => rfl) k s

end

end Sys2Proof.Machine
end

