-- ==== Sys2Proof/Laws/Tick.lean ====
section
/-! SUPPORT. What one TICK does to the records, the trace and the sink (41_tick.md R120, R125), and the bounds of one
channel's arithmetic (43_fixed_point.md R157, R158). -/

namespace Sys2Proof.Machine

/-! The writes of a tick -/

theorem tickWritesFrom_append (k : Config) (c : Nat) (xs ys : List Channel) :
    tickWritesFrom k c (xs ++ ys) = tickWritesFrom k c xs ++ tickWritesFrom k (c + xs.length) ys := by
  induction xs generalizing c with
  | nil => simp [tickWritesFrom]
  | cons ch rest ih =>
    have e : c + (rest.length + 1) = c + 1 + rest.length := by omega
    simp only [List.cons_append, tickWritesFrom, ih, List.length_cons, e]
    split <;> simp

/-- Every write of a tick goes to an active record, in the list's place. -/
theorem mem_tickWritesFrom {k : Config} {c : Nat} {xs : List Channel} {w : PwmWrite} :
    w ∈ tickWritesFrom k c xs ↔
      ∃ j ch, xs[j]? = some ch ∧ ch.active = true ∧ w = ⟨c + j, tickDuty k ch⟩ := by
  induction xs generalizing c with
  | nil => simp [tickWritesFrom]
  | cons x rest ih =>
    have step : (∃ j ch, (x :: rest)[j]? = some ch ∧ ch.active = true ∧ w = ⟨c + j, tickDuty k ch⟩) ↔
        (x.active = true ∧ w = ⟨c, tickDuty k x⟩) ∨
        ∃ j ch, rest[j]? = some ch ∧ ch.active = true ∧ w = ⟨c + 1 + j, tickDuty k ch⟩ := by
      constructor
      · rintro ⟨j, ch, hj, ha, rfl⟩
        cases j with
        | zero => left; simp at hj; subst hj; exact ⟨ha, rfl⟩
        | succ j => right; exact ⟨j, ch, by simpa using hj, ha, by simp; omega⟩
      · rintro (⟨ha, rfl⟩ | ⟨j, ch, hj, ha, rfl⟩)
        · exact ⟨0, x, rfl, ha, rfl⟩
        · exact ⟨j + 1, ch, by simpa using hj, ha, by simp; omega⟩
    rw [step, ← ih]
    simp only [tickWritesFrom]
    split <;> simp_all

/-- A tick makes one write to an active channel and none to another. -/
theorem writesTo_tickWritesFrom (k : Config) (c₀ c : Nat) (chs : List Channel) :
    writesTo (c₀ + c) (tickWritesFrom k c₀ chs) =
      match chs[c]? with
      | some ch => if ch.active then [⟨c₀ + c, tickDuty k ch⟩] else []
      | none => [] := by
  induction chs generalizing c₀ c with
  | nil => simp [tickWritesFrom, writesTo]
  | cons ch rest ih =>
    cases c with
    | zero =>
      have none_later : writesTo c₀ (tickWritesFrom k (c₀ + 1) rest) = [] := by
        simp only [writesTo, List.filter_eq_nil_iff, mem_tickWritesFrom]
        rintro w ⟨j, ch, -, -, rfl⟩
        simp; omega
      simp only [writesTo] at none_later
      simp only [tickWritesFrom, Nat.add_zero]
      split <;> simp_all [writesTo]
    | succ c =>
      have e : c₀ + (c + 1) = c₀ + 1 + c := by omega
      simp only [tickWritesFrom, List.getElem?_cons_succ]
      rw [e]
      split
      · rw [← ih]
        simp only [writesTo, List.filter_cons]
        rw [if_neg (by simp; omega)]
      · rw [← ih]

/-! The loop over the first `n` channels -/

/-- The loop of TICK over channels `0..n-1`. -/
def tickFirst (k : Config) (n : Nat) (s : State) : State := (List.range n).foldl (tickChannel k) s

theorem tickEffect_eq (k : Config) (s : State) : tickEffect k s = tickFirst k k.C s := rfl

theorem tickFirst_succ (k : Config) (n : Nat) (s : State) :
    tickFirst k (n + 1) s = tickChannel k (tickFirst k n s) n := by
  simp [tickFirst, List.range_succ]

theorem tickFirst_getElem? (k : Config) (n : Nat) (s : State) (j : Nat) :
    (tickFirst k n s).channels[j]? = if j < n then (s.channels[j]?).map (tickRecord k) else s.channels[j]? := by
  induction n generalizing j with
  | zero => simp [tickFirst]
  | succ n ih =>
    rw [tickFirst_succ]
    rcases tickChannel_cases k (tickFirst k n s) n with ⟨h, hn⟩ | ⟨ch, hch, ha, h⟩
    · rw [h, ih]
      rw [ih] at hn
      rcases Nat.lt_trichotomy j n with hj | rfl | hj
      · simp [hj, Nat.lt_succ_of_lt hj]
      · simp only [Nat.lt_irrefl, if_false, Nat.lt_succ_self, if_true] at hn ⊢
        cases hc : s.channels[j]? with
        | none => rfl
        | some ch => simp [tickRecord, hn ch hc]
      · simp [Nat.not_lt_of_gt hj, Nat.not_lt.2 (Nat.succ_le_of_lt hj)]
    · rw [h]
      simp only [pwmWrite_channels, updateChannel_channels, List.getElem?_modify, ih]
      rw [ih] at hch
      rcases Nat.lt_trichotomy j n with hj | rfl | hj
      · simp [hj, Nat.lt_succ_of_lt hj, Nat.ne_of_gt hj]
      · simp only [Nat.lt_irrefl, if_false] at hch
        simp [hch, tickRecord, ha]
      · simp [Nat.not_lt_of_gt hj, Nat.not_lt.2 (Nat.succ_le_of_lt hj), Nat.ne_of_lt hj]

theorem tickFirst_trace (k : Config) (n : Nat) (s : State) :
    (tickFirst k n s).trace = s.trace ++ tickWritesFrom k 0 (s.channels.take n) := by
  induction n with
  | zero => simp [tickFirst, tickWritesFrom]
  | succ n ih =>
    rw [tickFirst_succ, List.take_add_one, tickWritesFrom_append]
    rcases tickChannel_cases k (tickFirst k n s) n with ⟨h, hn⟩ | ⟨ch, hch, ha, h⟩
    · rw [h, ih]
      rw [tickFirst_getElem?] at hn
      cases hc : s.channels[n]? with
      | none => simp [tickWritesFrom]
      | some ch => simp [tickWritesFrom, hn ch (by simpa using hc)]
    · rw [h]
      rw [tickFirst_getElem?] at hch
      simp only [Nat.lt_irrefl, if_false] at hch
      have hl : n ≤ s.channels.length := Nat.le_of_lt (List.getElem?_eq_some_iff.1 hch).1
      simp [ih, hch, tickWritesFrom, ha, Nat.min_eq_left hl, List.append_assoc]

theorem tickFirst_sink (k : Config) (n : Nat) (s : State) :
    (tickFirst k n s).sink =
      (tickWritesFrom k 0 (s.channels.take n)).foldl (fun m w => m.write w.channel w.duty) s.sink := by
  induction n with
  | zero => simp [tickFirst, tickWritesFrom]
  | succ n ih =>
    rw [tickFirst_succ, List.take_add_one, tickWritesFrom_append]
    rcases tickChannel_cases k (tickFirst k n s) n with ⟨h, hn⟩ | ⟨ch, hch, ha, h⟩
    · rw [h, ih]
      rw [tickFirst_getElem?] at hn
      cases hc : s.channels[n]? with
      | none => simp [tickWritesFrom]
      | some ch => simp [tickWritesFrom, hn ch (by simpa using hc)]
    · rw [h]
      rw [tickFirst_getElem?] at hch
      simp only [Nat.lt_irrefl, if_false] at hch
      have hl : n ≤ s.channels.length := Nat.le_of_lt (List.getElem?_eq_some_iff.1 hch).1
      simp [ih, hch, tickWritesFrom, ha, Nat.min_eq_left hl]

/-! The whole loop -/

section
variable {k : Config} {s : State} (h : s.channels.length = k.C)
include h

/-- TICK advances every active record and leaves the others. -/
theorem tickEffect_channels : (tickEffect k s).channels = s.channels.map (tickRecord k) := by
  apply List.ext_getElem?
  intro j
  rw [tickEffect_eq, tickFirst_getElem?, List.getElem?_map]
  split
  · rfl
  · rw [List.getElem?_eq_none (by omega)]; rfl

/-- The PWM writes of a TICK. -/
theorem tickEffect_trace : (tickEffect k s).trace = s.trace ++ tickWritesFrom k 0 s.channels := by
  rw [tickEffect_eq, tickFirst_trace, ← h, List.take_length]

/-- The sink after a TICK. -/
theorem tickEffect_sink : (tickEffect k s).sink =
    (tickWritesFrom k 0 s.channels).foldl (fun m w => m.write w.channel w.duty) s.sink := by
  rw [tickEffect_eq, tickFirst_sink, ← h, List.take_length]

end

/-! One channel's arithmetic -/

/-- A 16-bit two's complement number is at most 32767. -/
theorem period_le (p : BitVec 16) : p.toInt.toNat ≤ 32767 := by
  have := BitVec.toInt_lt (x := p)
  omega

section
variable {k : Config} {ch : Channel} (hk : k.WF) (h : Breathing k ch)
include hk h

theorem cycleLength_pos : 1 ≤ cycleLength k ch :=
  Nat.mul_pos (by have := h.period_pos; omega) hk.base_pos

omit h in
theorem interval_eq : interval k ch = cycleLength k ch / k.STEPS := quotient_of_pos hk.steps_pos

/-- W3 makes the interval at least 1 (R210). -/
theorem interval_pos : 1 ≤ interval k ch := by
  rw [interval_eq hk]
  refine Nat.div_pos (Nat.le_trans hk.steps_le_base ?_) hk.steps_pos
  exact Nat.le_mul_of_pos_left _ (by have := h.period_pos; omega)

theorem nextPhase_eq : nextPhase k ch = (ch.phase.toNat + 1) % cycleLength k ch :=
  remainder_of_pos (cycleLength_pos hk h)

theorem curveIndex_eq (phase : Nat) :
    curveIndex k ch phase = phase / (cycleLength k ch / k.STEPS) % k.STEPS := by
  rw [curveIndex, remainder_of_pos hk.steps_pos, quotient_of_pos (interval_pos hk h), interval_eq hk]

theorem curveIndex_lt (phase : Nat) : curveIndex k ch phase < k.STEPS := by
  rw [curveIndex_eq hk h]
  exact Nat.mod_lt _ hk.steps_pos

omit h in
theorem cycleLength_le : cycleLength k ch ≤ 2147418112 := by
  have := Nat.mul_le_mul (period_le ch.period) hk.base_le
  exact this

/-- The 32-bit register holds the advanced phase (R157). -/
theorem advanced_phase : (advanced k ch).phase.toNat = (ch.phase.toNat + 1) % cycleLength k ch := by
  have h1 : (ch.phase.toNat + 1) % cycleLength k ch < cycleLength k ch := Nat.mod_lt _ (cycleLength_pos hk h)
  have h2 := cycleLength_le (ch := ch) hk
  simp only [advanced, nextPhase_eq hk h, BitVec.toNat_ofNat]
  omega

/-- TICK keeps I2 of an active record. -/
theorem advanced_breathing : Breathing k (advanced k ch) where
  period_pos := h.period_pos
  tbl_lt := h.tbl_lt
  phase_lt := by rw [advanced_phase hk h]; exact Nat.mod_lt _ (cycleLength_pos hk h)

end

end Sys2Proof.Machine
end

