-- ==== Sys2Proof/Laws/Commands.lean ====
section
/-! SUPPORT. One inversion lemma for all commands: what each does is one of six effects under one frame. -/

namespace Sys2Proof.Machine

/-- Every command is its effect under `perform`, and no command reports the decoder's cause. -/
theorem commandOn_cases (k : Config) (i : Instr) (s : State) :
    ∃ cause f, commandOn k i s = perform cause f s ∧ cause ≠ .ignReserved ∧
      ((i = .init ∧ cause = .done ∧ f = initEffect k) ∨
       (i = .isRunning ∧ cause = .done ∧ f = id) ∨
       (i = .tick ∧ cause = .done ∧ f = tickEffect k) ∨
       (∃ c p t, i = .start c p t ∧ cause = startCause k c p t ∧ f = startEffect c p t) ∨
       (∃ c, (i = .stop c ∨ i = .setOff c) ∧ cause = channelCause k c ∧ f = switchOff c) ∨
       (∃ c, i = .setFull c ∧ cause = channelCause k c ∧ f = pwmWrite c k.DUTY_MAX) ∨
       (∃ c pc, i = .setPercent c pc ∧ cause = percentCause k c pc ∧ f = pwmWrite c (percentToDuty k pc))) := by
  cases i
  case init => exact ⟨.done, initEffect k, rfl, by simp, by simp⟩
  case isRunning => exact ⟨.done, id, rfl, by simp, by simp⟩
  case tick => exact ⟨.done, tickEffect k, rfl, by simp, by simp⟩
  case start c p t => exact ⟨_, _, rfl, by unfold startCause; grind, by simp⟩
  case stop c => exact ⟨_, _, rfl, by unfold channelCause; grind, by simp⟩
  case setOff c => exact ⟨_, _, rfl, by unfold channelCause; grind, by simp⟩
  case setFull c => exact ⟨_, _, rfl, by unfold channelCause; grind, by simp⟩
  case setPercent c pc => exact ⟨_, _, rfl, by unfold percentCause; grind, by simp⟩

/-- A command that is performed has legal operands. -/
theorem startCause_done {k : Config} {c t : Nat} {p : Int} (h : startCause k c p t = .done) :
    c < k.C ∧ 0 < p ∧ t < k.T := by
  unfold startCause at h; grind

theorem channelCause_done {k : Config} {c : Nat} (h : channelCause k c = .done) : c < k.C := by
  unfold channelCause at h; grind

theorem percentCause_done {k : Config} {c pc : Nat} (h : percentCause k c pc = .done) : c < k.C ∧ pc ≤ 100 := by
  unfold percentCause at h; grind

end Sys2Proof.Machine
end

