-- ==== Sys2Proof/Laws/Decode.lean ====
section
/-! SUPPORT. The fields of an assembled word, and every word as the assembly of its fields (30_encoding.md R80). -/

namespace Sys2Proof

section
variable (op tbl : BitVec 4) (chn : BitVec 8) (arg : BitVec 16)

/-- Bit `i` of an assembled word, by the field it falls in. -/
theorem getLsbD_assemble (i : Nat) : (assemble op tbl chn arg).getLsbD i =
    if i < 16 then arg.getLsbD i else if i - 16 < 8 then chn.getLsbD (i - 16)
    else if i - 16 - 8 < 4 then tbl.getLsbD (i - 16 - 8) else op.getLsbD (i - 16 - 8 - 4) := by
  have h : (assemble op tbl chn arg).getLsbD i =
      (op ++ tbl ++ chn ++ arg : BitVec (4 + 4 + 8 + 16)).getLsbD i := rfl
  rw [h, BitVec.getLsbD_append, BitVec.getLsbD_append, BitVec.getLsbD_append]

@[simp] theorem opField_assemble : opField (assemble op tbl chn arg) = op := by
  refine BitVec.eq_of_getLsbD_eq fun i hi => ?_
  simp only [opField, BitVec.getLsbD_extractLsb', getLsbD_assemble]
  grind

@[simp] theorem tblField_assemble : tblField (assemble op tbl chn arg) = tbl := by
  refine BitVec.eq_of_getLsbD_eq fun i hi => ?_
  simp only [tblField, BitVec.getLsbD_extractLsb', getLsbD_assemble]
  grind

@[simp] theorem chnField_assemble : chnField (assemble op tbl chn arg) = chn := by
  refine BitVec.eq_of_getLsbD_eq fun i hi => ?_
  simp only [chnField, BitVec.getLsbD_extractLsb', getLsbD_assemble]
  grind

@[simp] theorem argField_assemble : argField (assemble op tbl chn arg) = arg := by
  refine BitVec.eq_of_getLsbD_eq fun i hi => ?_
  simp only [argField, BitVec.getLsbD_extractLsb', getLsbD_assemble]
  grind

end

@[simp] theorem mustBeZero_eq_instr {b : Bool} {i j : Instr} : mustBeZero b i = .instr j ↔ b = true ∧ i = j := by
  cases b <;> simp [mustBeZero]

@[simp] theorem mustBeZero_eq_reserved {b : Bool} {i : Instr} {r : Reserved} :
    mustBeZero b i = .reserved r ↔ b = false ∧ r = .fieldNotZero := by
  cases b <;> simp [mustBeZero, eq_comm]

theorem onlyOp_iff (w : Word) : onlyOp w = true ↔ tblField w = 0#4 ∧ chnField w = 0#8 ∧ argField w = 0#16 := by
  simp [onlyOp, and_assoc]

theorem onlyChn_iff (w : Word) : onlyChn w = true ↔ tblField w = 0#4 ∧ argField w = 0#16 := by
  simp [onlyChn]

/-- What the decoder answers is one of the eight rows: the operation code, the fields that must be zero, the operands. -/
theorem decode_cases {w : Word} {i : Instr} (h : decode w = .instr i) :
    (opField w = 0x1#4 ∧ onlyOp w = true ∧ i = .init) ∨
    (opField w = 0x2#4 ∧ i = .start (chnField w).toNat (argField w).toInt (tblField w).toNat) ∨
    (opField w = 0x3#4 ∧ onlyChn w = true ∧ i = .stop (chnField w).toNat) ∨
    (opField w = 0x4#4 ∧ onlyOp w = true ∧ i = .isRunning) ∨
    (opField w = 0x5#4 ∧ onlyOp w = true ∧ i = .tick) ∨
    (opField w = 0x6#4 ∧ onlyChn w = true ∧ i = .setFull (chnField w).toNat) ∨
    (opField w = 0x7#4 ∧ tblField w = 0#4 ∧ i = .setPercent (chnField w).toNat (argField w).toNat) ∨
    (opField w = 0x8#4 ∧ onlyChn w = true ∧ i = .setOff (chnField w).toNat) := by
  unfold decode at h
  split at h
  · simp_all
  split at h
  · simp_all
  split at h
  · simp_all
  split at h
  · simp_all
  split at h
  · simp_all
  split at h
  · simp_all
  split at h
  · simp_all
  split at h
  · simp_all
  · cases h

/-- Masking a word masks its fields. -/
theorem assemble_and (a b a' b' : BitVec 4) (c c' : BitVec 8) (d d' : BitVec 16) :
    assemble a b c d &&& assemble a' b' c' d' = assemble (a &&& a') (b &&& b') (c &&& c') (d &&& d') := by
  refine BitVec.eq_of_getLsbD_eq fun i hi => ?_
  simp only [BitVec.getLsbD_and, getLsbD_assemble]
  grind

/-- Words are equal when their fields are. -/
theorem assemble_inj {a b a' b' : BitVec 4} {c c' : BitVec 8} {d d' : BitVec 16} :
    assemble a b c d = assemble a' b' c' d' ↔ a = a' ∧ b = b' ∧ c = c' ∧ d = d' := by
  refine ⟨fun h => ⟨?_, ?_, ?_, ?_⟩, by rintro ⟨rfl, rfl, rfl, rfl⟩; rfl⟩
  · simpa using congrArg opField h
  · simpa using congrArg tblField h
  · simpa using congrArg chnField h
  · simpa using congrArg argField h

theorem assemble_fields (w : Word) : assemble (opField w) (tblField w) (chnField w) (argField w) = w := by
  refine BitVec.eq_of_getLsbD_eq fun i hi => ?_
  simp only [getLsbD_assemble, opField, tblField, chnField, argField, BitVec.getLsbD_extractLsb']
  grind

end Sys2Proof
end

