-- ==== Sys2Proof/Laws/PerInstr.lean ====
section
/-! SUPPORT. Per instruction: the `op` field of its word is the operation code of the opcode map (30_encoding.md R83). -/

namespace Sys2Proof.Laws.OpField

/-- The word of `i` carries the operation code of `i` in bits 31:28. -/
def Statement (i : Instr) : Prop := opField (encode i) = i.opcode

theorem init : Statement .init := by simp [Statement, encode]
theorem start (c : Nat) (p : Int) (t : Nat) : Statement (.start c p t) := by simp [Statement, encode]
theorem stop (c : Nat) : Statement (.stop c) := by simp [Statement, encode]
theorem isRunning : Statement .isRunning := by simp [Statement, encode]
theorem tick : Statement .tick := by simp [Statement, encode]
theorem setFull (c : Nat) : Statement (.setFull c) := by simp [Statement, encode]
theorem setPercent (c pc : Nat) : Statement (.setPercent c pc) := by simp [Statement, encode]
theorem setOff (c : Nat) : Statement (.setOff c) := by simp [Statement, encode]

end Sys2Proof.Laws.OpField
end

