-- ==== Sys2Proof/Laws/Ports.lean ====
section
/-! SUPPORT. What one event of the arbiter can do (15_interfaces.md R43, R46, R47). -/

namespace Sys2Proof.Machine

/-- `exec` performs every command on the instance's own configuration. -/
theorem exec_eq_fun : exec = fun i s => .next (commandOn Config.cfg i s) := by
  funext i s; exact exec_eq i s

/-- One event: the pending tick, the waiting command, a reserved word ignored, or nothing. -/
theorem arbitrate_cases (k : Config) (s : State) :
    ∃ t, arbitrate (fun i s => .next (commandOn k i s)) k s = .next t ∧
      ((s.tickPending = true ∧ t = tickPinOn k { s with tickPending := false }) ∨
       (s.tickPending = false ∧ ∃ w i, s.cmdPort = some w ∧ decode w = .instr i ∧
          t = commandOn k i { s with cmdPort := none }) ∨
       (s.tickPending = false ∧ ∃ w r, s.cmdPort = some w ∧ decode w = .reserved r ∧
          t = ignored .ignReserved { s with cmdPort := none }) ∨
       (s.tickPending = false ∧ s.cmdPort = none ∧ t = s)) := by
  unfold arbitrate
  by_cases pending : s.tickPending = true
  · exact ⟨_, if_pos pending, .inl ⟨pending, rfl⟩⟩
  · rw [if_neg pending]
    have free : s.tickPending = false := by simpa using pending
    cases waiting : s.cmdPort with
    | none => exact ⟨s, rfl, .inr (.inr (.inr ⟨free, rfl, rfl⟩))⟩
    | some w =>
      simp only [performWord]
      cases decoded : decode w with
      | instr i => exact ⟨_, rfl, .inr (.inl ⟨free, w, i, rfl, decoded, rfl⟩)⟩
      | reserved r => exact ⟨_, rfl, .inr (.inr (.inl ⟨free, w, r, rfl, decoded, rfl⟩))⟩

/-- While `rst_i = 0` a step is a move of the environment or an event. -/
theorem step_of_rst_low {s : State} (low : s.rst = false) : step s = stepOutOfReset exec Config.cfg s := by
  rw [step, stepWith, if_neg (by simp [low])]

/-- While `rst_i = 1` a step holds the reset or ends it, and no event is performed. -/
theorem step_of_rst_high {s : State} (high : s.rst = true) : step s = .next (holdReset Config.cfg s) := by
  rw [step, stepWith, if_pos high]

/-- Held in reset, a step is a further cycle of reset or the fall of `rst_i` alone. -/
theorem holdReset_cases (k : Config) (s : State) :
    (∃ rest, s.env = .reset :: rest ∧ holdReset k s = resetBlock k s.trace { s with env := rest }) ∨
    ((∀ rest, s.env ≠ .reset :: rest) ∧ holdReset k s = { s with rst := false }) := by
  unfold holdReset
  split
  · exact .inl ⟨_, ‹_›, rfl⟩
  · exact .inr ⟨‹_›, rfl⟩

/-- A cycle with `rst_i = 1` resets the block, whether the level rises or is held. -/
theorem step_of_reset {s : State} {rest : List Stimulus} (h : s.env = .reset :: rest) :
    step s = .next (resetBlock Config.cfg s.trace { s with env := rest }) := by
  cases level : s.rst
  · rw [step_of_rst_low level, stepOutOfReset, h]; rfl
  · rw [step_of_rst_high level, holdReset, h]; rfl

/-- In a free cycle the step is one event of the arbiter, with the cycle used up. -/
theorem step_of_freeCycle {s : State} (h : FreeCycle s) :
    step s = arbitrate exec Config.cfg { s with env := s.env.tail } := by
  rw [step_of_rst_low h.rst]
  rcases h.env with none_left | ⟨rest, free⟩
  · have same : { s with env := s.env.tail } = s := by cases s; cases none_left; rfl
    rw [same, stepOutOfReset, none_left]
  · rw [stepOutOfReset, free]; rfl

end Sys2Proof.Machine
end

