-- ==== Sys2Proof/Tests/Slice0.lean ====
section
/-! SUPPORT. Tests against the words, tables and vectors of the spec (30_encoding.md section 6, 95_test_vectors.md), and
witnesses for the hypotheses of the statements. -/

namespace Sys2Proof.Tests

open Sys2Proof.Machine

/-! ## Well-formedness: an ill-formed term for each check -/

theorem test_wf_accepts : (Instr.start 255 (-32768) 15).wf = true ∧ (Instr.setPercent 255 65535).wf = true := by decide
theorem test_wf_start_channel : (Instr.start 256 1 0).wf = false := by decide
theorem test_wf_start_period_high : (Instr.start 0 32768 0).wf = false := by decide
theorem test_wf_start_period_low : (Instr.start 0 (-32769) 0).wf = false := by decide
theorem test_wf_start_table : (Instr.start 0 1 16).wf = false := by decide
theorem test_wf_stop_channel : (Instr.stop 256).wf = false := by decide
theorem test_wf_setFull_channel : (Instr.setFull 256).wf = false := by decide
theorem test_wf_setPercent_channel : (Instr.setPercent 256 0).wf = false := by decide
theorem test_wf_setPercent_percent : (Instr.setPercent 0 65536).wf = false := by decide
theorem test_wf_setOff_channel : (Instr.setOff 256).wf = false := by decide

/-! ## The configurations of 95_test_vectors.md section 1 -/

/-- Configuration T8. -/
def t8 : Config where
  C := 4
  T := 2
  STEPS := 8
  TABLE_BASE := 8
  N := 11
  CORR_MAX := 100
  DUTY_MAX := 255
  CURVE := [[0, 3, 6, 9, 10, 7, 4, 1], [0, 0, 5, 10, 10, 5, 0, 0]]
  CORR := [0, 1, 2, 4, 7, 12, 20, 32, 50, 73, 100]

/-- Configuration T5. -/
def t5 : Config where
  C := 1
  T := 1
  STEPS := 5
  TABLE_BASE := 8
  N := 5
  CORR_MAX := 4
  DUTY_MAX := 4
  CURVE := [[0, 1, 4, 2, 0]]
  CORR := [0, 1, 2, 3, 4]

theorem test_config_t8 : t8.WF := by decide
theorem test_config_t5 : t5.WF := by decide
theorem test_config_size : ¬ { t5 with CORR := [0] }.WF := by decide
theorem test_config_w1 : ¬ { t5 with C := 257 }.WF := by decide
theorem test_config_w2 : ¬ { t5 with T := 0, CURVE := [] }.WF := by decide
theorem test_config_w3 : ¬ { t5 with TABLE_BASE := 4 }.WF := by decide
theorem test_config_w4 : ¬ { t5 with CURVE := [[0, 1, 5, 2, 0]] }.WF := by decide
theorem test_config_w5 : ¬ { t5 with CORR := [0, 2, 1, 3, 4] }.WF := by decide
theorem test_config_w6 : ¬ { t5 with CORR_MAX := 3 }.WF := by decide
theorem test_config_w7 : ¬ { t5 with DUTY_MAX := 0 }.WF := by decide

/-! ## Decoding: words written out in 30_encoding.md section 6 and 95_test_vectors.md 3.1 -/

theorem test_decode_init : decode 0x10000000#32 = .instr .init := by decide
theorem test_decode_start : decode 0x21010002#32 = .instr (.start 1 2 1) := by decide
theorem test_decode_start_edges : decode 0x2FFF0001#32 = .instr (.start 255 1 15) ∧
    decode 0x20008000#32 = .instr (.start 0 (-32768) 0) ∧ decode 0x20037FFF#32 = .instr (.start 3 32767 0) := by decide
theorem test_decode_stop : decode 0x30030000#32 = .instr (.stop 3) := by decide
theorem test_decode_isRunning : decode 0x40000000#32 = .instr .isRunning := by decide
theorem test_decode_tick : decode 0x50000000#32 = .instr .tick := by decide
theorem test_decode_setFull : decode 0x60020000#32 = .instr (.setFull 2) := by decide
theorem test_decode_setPercent : decode 0x70020032#32 = .instr (.setPercent 2 50) ∧
    decode 0x7002FFFF#32 = .instr (.setPercent 2 65535) := by decide
theorem test_decode_setOff : decode 0x80020000#32 = .instr (.setOff 2) := by decide

theorem test_decode_reserved_opcode : decode 0x00000000#32 = .reserved .opcode ∧
    decode 0x90000000#32 = .reserved .opcode ∧ decode 0xFFFFFFFF#32 = .reserved .opcode := by decide
theorem test_decode_reserved_Z : decode 0x10000001#32 = .reserved .fieldNotZero ∧
    decode 0x10010000#32 = .reserved .fieldNotZero ∧ decode 0x11000000#32 = .reserved .fieldNotZero ∧
    decode 0x40000100#32 = .reserved .fieldNotZero ∧ decode 0x50010000#32 = .reserved .fieldNotZero := by decide
theorem test_decode_reserved_C : decode 0x30000001#32 = .reserved .fieldNotZero ∧
    decode 0x31000000#32 = .reserved .fieldNotZero ∧ decode 0x60020001#32 = .reserved .fieldNotZero ∧
    decode 0x80020100#32 = .reserved .fieldNotZero := by decide
theorem test_decode_reserved_CA : decode 0x71010032#32 = .reserved .fieldNotZero := by decide

theorem test_encode : encode (.start 0 (-1) 0) = 0x2000FFFF#32 ∧ encode (.start 99 6 0) = 0x20630006#32 ∧
    encode (.setPercent 1 101) = 0x70010065#32 ∧ encode (.setOff 2) = 0x80020000#32 ∧
    encode .isRunning = 0x40000000#32 := by decide

theorem test_decodeTableWord : decodeTableWord 32 0x20000000 = some (.start 0 0 0) ∧
    decodeTableWord 32 0x30000001 = none := by decide

/-! ## The step after reset runs the word it is offered -/

theorem test_first_step_init : step (State.reset.withFetchWord 32 0x10000000) =
    exec .init State.reset := rfl
theorem test_first_step_start : step (State.reset.withFetchWord 32 0x20000006) =
    exec (.start 0 6 0) State.reset := rfl
theorem test_first_step_tick : step (State.reset.withFetchWord 32 0x50000000) =
    exec .tick State.reset := rfl
theorem test_first_step_completes : ∃ t, step (State.reset.withFetchWord 32 0x80000000) = .next t := ⟨_, rfl⟩

/-! ## The commands on T8 and T5 (95_test_vectors.md 3.2 to 3.4) -/

/-- A state with the given records and driver flag, nothing written yet. -/
def stateOf (chs : List Channel) (running : Bool) : State :=
  { State.resetOn t8 with channels := chs, running := running }

/-- The start state of K2. -/
def k2 : State := stateOf [⟨true, 1, 5, 0⟩, ⟨true, 2, 5, 1⟩, Channel.zero, Channel.zero] true

/-- K1: INIT from reset. -/
theorem test_init_from_reset : (initOn t8 (State.resetOn t8)).trace = [⟨0, 0⟩, ⟨1, 0⟩, ⟨2, 0⟩, ⟨3, 0⟩] ∧
    (initOn t8 (State.resetOn t8)).responses = [false] := by decide

/-- K2: INIT while channels are active. -/
theorem test_init_while_active : (initOn t8 k2).channels = List.replicate 4 Channel.zero ∧
    (initOn t8 k2).running = false ∧ (initOn t8 k2).sink = [(0, 0), (1, 0), (2, 0), (3, 0)] := by decide

/-- K5: START of an active channel restarts it. -/
theorem test_start_restarts : (startOn t8 0 2 1 k2).channels[0]? = some ⟨true, 2, 0, 1⟩ ∧
    (startOn t8 0 2 1 k2).responses = [true] ∧ (startOn t8 0 2 1 k2).trace = [] := by decide

/-- K7 to K10: the causes in their order. -/
theorem test_start_causes : startCause t8 4 0 2 = .ignIndex ∧ startCause t8 1 (-5) 2 = .ignPeriod ∧
    startCause t8 1 3 2 = .ignTable ∧ startCause t8 3 32767 1 = .done := by decide

/-- K12: STOP of the last active channel. -/
theorem test_stop_last : (stopOn t8 1 (stateOf [Channel.zero, ⟨true, 2, 5, 1⟩, Channel.zero, Channel.zero] true)).running = false ∧
    (stopOn t8 1 (stateOf [Channel.zero, ⟨true, 2, 5, 1⟩, Channel.zero, Channel.zero] true)).channels[1]? =
      some ⟨false, 2, 5, 1⟩ := by decide

/-- K11, K14: STOP with another channel still active, and on an inactive channel. -/
theorem test_stop_keeps_running : (stopOn t8 0 k2).running = true ∧ (stopOn t8 2 k2).trace = [⟨2, 0⟩] ∧
    (stopOn t8 2 k2).responses = [true] := by decide

/-- K16. -/
theorem test_isRunning : (isRunningOn k2).responses = [true] ∧ (isRunningOn (State.resetOn t8)).responses = [false] := by
  decide

/-- TK5b: two active channels, ascending, the second wraps. -/
theorem test_tick_two_channels :
    (tickOn t8 (stateOf [Channel.zero, ⟨true, 2, 3, 1⟩, Channel.zero, ⟨true, 1, 7, 0⟩] true)).trace = [⟨1, 30⟩, ⟨3, 1⟩] ∧
    (tickOn t8 (stateOf [Channel.zero, ⟨true, 2, 3, 1⟩, Channel.zero, ⟨true, 1, 7, 0⟩] true)).channels.map (·.phase) =
      [0, 4, 0, 0] := by decide

/-- TK4, tick 15: STEPS does not divide the cycle, the index starts again. -/
theorem test_tick_index_wraps :
    (tickOn t5 { State.resetOn t5 with channels := [⟨true, 2, 14, 0⟩], running := true }).trace = [⟨0, 1⟩] ∧
    curveIndex t5 ⟨true, 2, 14, 0⟩ 15 = 0 ∧ curveIndex t5 ⟨true, 2, 14, 0⟩ 14 = 4 := by decide

/-- TK5c, TK5d: the largest period. -/
theorem test_tick_largest_period : tickDuty t8 ⟨true, 32767, 32766, 0⟩ = 10 ∧
    advanced t8 ⟨true, 32767, 262135, 0⟩ = ⟨true, 32767, 0, 0⟩ ∧ tickDuty t8 ⟨true, 32767, 262135, 0⟩ = 1 := by decide

/-- DP2, DP3. -/
theorem test_setFull : (setFullOn t8 2 k2).trace = [⟨2, 255⟩] ∧ (setFullOn t8 2 k2).channels = k2.channels ∧
    (setFullOn t8 4 k2).outcome = .ignIndex := by decide

/-- DP5 to DP11. -/
theorem test_setPercent : (setPercentOn t8 0 33 k2).trace = [⟨0, 84⟩] ∧ (setPercentOn t8 0 99 k2).trace = [⟨0, 252⟩] ∧
    (setPercentOn t8 0 100 k2).trace = [⟨0, 255⟩] := by decide
theorem test_setPercent_ignored : (setPercentOn t8 0 101 k2).outcome = .ignPercent ∧
    (setPercentOn t8 4 101 k2).outcome = .ignIndex ∧ (setPercentOn t8 4 101 k2).trace = [] := by decide

/-- DP12, DP13: one write, and the driver stops with the last channel. -/
theorem test_setOff : (setOffOn t8 0 k2).trace = [⟨0, 0⟩] ∧ (setOffOn t8 0 k2).running = true ∧
    (setOffOn t8 1 (setOffOn t8 0 k2)).running = false := by decide

/-- R154: `emit` of T8 on all inputs. -/
theorem test_emit_t8 : (List.range 11).map (emit t8) = [1, 2, 5, 10, 17, 30, 51, 81, 127, 186, 255] := by decide

/-- 3.5: the clamp catches a value that scaling truncates to 0; a full-scale product. -/
theorem test_scale_corners : clamp1 (scale { t8 with CORR_MAX := 1000 } 3) = 1 ∧
    scale { t8 with CORR_MAX := 65535, DUTY_MAX := 65535 } 65535 = 65535 ∧
    percentToDuty { t8 with DUTY_MAX := 65535 } 1 = 655 := by decide

/-! ## The ports (95_test_vectors.md 3.7) -/

/-- The state of 3.7: channel 0 breathing with period 1, and the moves of the environment to come. -/
def breathing (env : List Stimulus) : State :=
  { stateOf [⟨true, 1, 0, 0⟩, Channel.zero, Channel.zero, Channel.zero] true with env := env }

/-- What the sink has received and the responses after `n` steps on T8. -/
def observed (n : Nat) (s : State) : List PwmWrite × List Bool :=
  match n with
  | 0 => (s.beforeReset ++ s.trace, s.responses)
  | n + 1 =>
    match stepOn t8 s with
    | .next t => observed n t
    | .fault _ => ([], [])
    | .refused _ => ([], [])

/-- IF2: a tick and a STOP in one idle cycle: TICK first, with no response, then STOP. -/
theorem test_tick_before_command :
    observed 4 (breathing [.present 0x30000000#32, .pulse]) = ([⟨0, 10⟩, ⟨0, 0⟩], [false]) := by decide

/-- IF4: two pulses during a command are one TICK. -/
theorem test_pulses_merge :
    observed 6 (breathing [.present 0x40000000#32, .free, .pulse, .pulse]) = ([⟨0, 10⟩], [true]) := by decide

/-- IF8: reset after the second of INIT's four writes. -/
theorem test_reset_during_init :
    observed 2 (breathing [.present 0x10000000#32, .resetDuring 2]) = ([⟨0, 0⟩, ⟨1, 0⟩], []) := by decide

/-- IF7 and R200: in a cycle with `rst_i = 1` the block is in the reset state and not ready for the word that waits, in a second
such cycle too; when the level has fallen it is ready. -/
theorem test_reset_held :
    (resetBlock t8 [] k2).channels = List.replicate 4 Channel.zero ∧ drvRun (resetBlock t8 [] k2) = false ∧
    cmdReady (resetBlock t8 [] k2) = false ∧ cmdReady (State.resetOn t8) = true := by decide
theorem test_reset_cycles :
    (holdReset t8 { resetBlock t8 [] k2 with env := [.reset] }).rst = true ∧
    (holdReset t8 { resetBlock t8 [] k2 with env := [.pulse] }).rst = false ∧
    (holdReset t8 { resetBlock t8 [] k2 with env := [.pulse] }).env = [.pulse] := by decide

/-- A word that waits during two cycles of reset is accepted after them: STOP on the reset state answers 0. -/
theorem test_reset_then_accept :
    observed 5 (breathing [.present 0x30000000#32, .reset, .reset]) = ([⟨0, 0⟩], [false]) := by decide

/-- R6: a configuration that is not well-formed is refused. -/
theorem test_malformed_refused : ∃ r, stepOn { t5 with TABLE_BASE := 4 } (breathing []) = .refused r := ⟨_, rfl⟩

/-- IF9: START raises `drv_run_o` from the reset state. -/
theorem test_driver_rises :
    driverCall (State.resetOn t8) (startOn t8 0 1 0 (State.resetOn t8)) = some .schedulePeriodic := by decide

/-! ## Witnesses: states of the instance that meet the statements' hypotheses -/

/-- Channel 0 breathing with period 1 on the first table, the other channels idle. -/
def live : State :=
  { State.reset with channels := State.reset.channels.set 0 ⟨true, 1, 0, 0⟩, running := true }

/-- The record of channel 0 in `live`. -/
def liveChannel : Channel := ⟨true, 1, 0, 0⟩

theorem test_channel_0_legal : 0 < Config.cfg.C := Config.cfg_wf.channels_pos

theorem test_table_0_legal : 0 < Config.cfg.T := Config.cfg_wf.tables_pos

theorem test_live_channel : live.channels[0]? = some liveChannel := by
  have := test_channel_0_legal
  simp [live, liveChannel, State.reset, State.resetOn, this]

theorem test_live_records : live.channels.length = Config.cfg.C := by
  simp [live, State.reset, State.resetOn]

theorem test_live_breathing : Breathing Config.cfg liveChannel where
  period_pos := by decide
  tbl_lt := test_table_0_legal
  phase_lt := by
    have := Config.cfg_wf.base_pos
    simp [liveChannel]; omega

/-- The records of `live` are the breathing one and zero records. -/
theorem live_mem {ch : Channel} (h : ch ∈ live.channels) : ch = liveChannel ∨ ch = Channel.zero := by
  rcases List.mem_or_eq_of_mem_set h with h | h
  · right; exact (List.mem_replicate.1 h).2
  · left; exact h

/-- A state with an active channel that meets I1 to I4: the hypotheses of the tick's statements. -/
theorem test_live_inv : Inv Config.cfg live where
  records := test_live_records
  running_eq := by
    have h := List.mem_of_getElem? test_live_channel
    simp only [anyActive]
    exact (List.any_eq_true.2 ⟨_, h, rfl⟩).symm
  breathing := fun ch h ha => by
    rcases live_mem h with rfl | rfl
    · exact test_live_breathing
    · cases ha
  stored := fun ch h => by
    rcases live_mem h with rfl | rfl
    · exact ⟨by decide, test_table_0_legal⟩
    · exact ⟨by decide, test_table_0_legal⟩
  legal := fun _ h => by cases h
  legalBefore := fun _ h => by cases h
  sink_eq := rfl
  held := fun h => by cases h

/-- The reset state with the TICK word waiting on the command port. -/
def idle : State := { State.reset with cmdPort := some 0x50000000#32 }

theorem test_idle_inv : Inv Config.cfg idle where
  records := by simp [idle, State.reset, State.resetOn]
  running_eq := by simp [idle, State.reset, State.resetOn, anyActive, Channel.zero]
  breathing := fun ch h ha => by rw [(List.mem_replicate.1 h).2] at ha; cases ha
  stored := fun ch h => by rw [(List.mem_replicate.1 h).2]; exact ⟨by decide, test_table_0_legal⟩
  legal := fun _ h => by cases h
  legalBefore := fun _ h => by cases h
  sink_eq := rfl
  held := fun h => by cases h

/-- For DecodeOfEncode, EncodeOfDecode, DecodeSelectsTheOpcodeRow: the edges of every field. -/
theorem test_witness_encoding : (Instr.start 255 (-32768) 15).wf = true ∧
    decode 0x2FFF8000#32 = .instr (.start 255 (-32768) 15) ∧
    (Instr.start 255 (-32768) 15).row.Selects 0x2FFF8000#32 := by decide

/-- For ReservedWordIsIgnored: the word 0 on the port of the reset state selects no row. -/
theorem test_witness_reserved : (∀ i : Instr, ¬ i.row.Selects 0x00000000#32) ∧
    (FreeCycle { State.reset with cmdPort := some 0x00000000#32 } ∧ State.reset.tickPending = false) := by
  refine ⟨fun i => ?_, ⟨rfl, .inl rfl⟩, rfl⟩
  cases i <;> simp [Instr.row, OpcodeRow.Selects]

/-- For StartBeginsTheCycle: the largest and the smallest legal period on channel 0. -/
theorem test_witness_start : live.channels.length = Config.cfg.C ∧ 0 < Config.cfg.C ∧ (1 : Int) ≤ 32767 ∧
    (32767 : Int) ≤ 32767 ∧ 0 < Config.cfg.T := ⟨test_live_records, test_channel_0_legal, by decide, by decide, test_table_0_legal⟩

/-- For the ignored clauses of StartBeginsTheCycle: the first index, the largest period and the first table that are illegal. -/
theorem test_witness_start_ignored : Config.cfg.C ≤ Config.cfg.C ∧ (0 < Config.cfg.C ∧ (0 : Int) ≤ 0) ∧
    (0 < Config.cfg.C ∧ (0 : Int) < 1 ∧ Config.cfg.T ≤ Config.cfg.T) :=
  ⟨Nat.le_refl _, ⟨test_channel_0_legal, by decide⟩, test_channel_0_legal, by decide, Nat.le_refl _⟩

/-- For StopForcesChannelOff, SetFullWritesDutyMax, SetOffCancelsBreathing: the last legal and the first illegal index. -/
theorem test_witness_channel : Config.cfg.C - 1 < Config.cfg.C ∧ Config.cfg.C ≤ Config.cfg.C :=
  ⟨by have := test_channel_0_legal; omega, Nat.le_refl _⟩

/-- For SetPercentWritesLinearDuty, clause by clause: 100 and 101 percent. -/
theorem test_witness_percent : (0 < Config.cfg.C ∧ 100 ≤ 100) ∧ Config.cfg.C ≤ Config.cfg.C ∧ (0 < Config.cfg.C ∧ 100 < 101) :=
  ⟨⟨test_channel_0_legal, by decide⟩, Nat.le_refl _, test_channel_0_legal, by decide⟩

/-- For TickActsOnEveryActiveChannel, TickChannelInSevenSteps, TickNeverWritesZero, BreathingIsPeriodic,
StopForcesChannelOff (its last clause), DirectWriteHoldsOnlyWhileInactive, TickChannelsAscendAndAreIndependent: an active channel. -/
theorem test_witness_tick : Inv Config.cfg live ∧ live.channels.length = Config.cfg.C ∧
    live.channels[0]? = some liveChannel ∧ liveChannel.active = true :=
  ⟨test_live_inv, test_live_records, test_live_channel, rfl⟩

/-- For TickActsOnEveryActiveChannel's clause about an inactive channel: `idle` has one at index 0. -/
theorem test_witness_inactive : idle.channels.length = Config.cfg.C ∧
    (idle.channels[0]?).any (fun ch => ch.active) = false ∧ idle.channels[0]? = some Channel.zero := by
  have := test_channel_0_legal
  simp [idle, State.reset, State.resetOn, this, Channel.zero]

/-- For TickWhileIdleDoesNothing. -/
theorem test_witness_idle : Inv Config.cfg idle ∧ idle.running = false := ⟨test_idle_inv, rfl⟩

/-- For PhaseAdvanceIsCompareAndClear, TickReadsAreInRange, IndexWrapsWhenStepsDoNotDivide, NothingOverflows and
NoDivisorIsZero: T5 with period 2, at phase 15 past the last whole interval, at phase 14 before it, and the wrap. -/
theorem test_witness_breathing_t5 : t5.WF ∧ Breathing t5 ⟨true, 2, 15, 0⟩ ∧ 15 < cycleLength t5 ⟨true, 2, 15, 0⟩ ∧
    interval t5 ⟨true, 2, 15, 0⟩ * t5.STEPS ≤ 15 ∧ 14 < interval t5 ⟨true, 2, 15, 0⟩ * t5.STEPS ∧
    (15#32).toNat + 1 = cycleLength t5 ⟨true, 2, 15, 0⟩ :=
  ⟨by decide, ⟨by decide, by decide, by decide⟩, by decide, by decide, by decide, by decide⟩

/-- For IndexWrapsWhenStepsDoNotDivide's last clause: in T8 STEPS divides every cycle. -/
theorem test_witness_breathing_t8 : t8.WF ∧ Breathing t8 ⟨true, 1, 7, 1⟩ ∧ 7 < cycleLength t8 ⟨true, 1, 7, 1⟩ ∧
    t8.STEPS ∣ cycleLength t8 ⟨true, 1, 7, 1⟩ :=
  ⟨by decide, ⟨by decide, by decide, by decide⟩, by decide, by decide⟩

/-- For CorrectIsMonotone, ScaleIsLinear and EmitRange: T8 at the ends of its correction table; T5 has CORR_MAX = DUTY_MAX. -/
theorem test_witness_fixed_point : t8.WF ∧ 0 ≤ 10 ∧ 10 < t8.N ∧ 100 ≤ t8.CORR_MAX ∧ t5.WF ∧ t5.CORR_MAX = t5.DUTY_MAX := by
  decide

/-- For IgnoredCommandChangesNothing: STOP of channel C is ignored. -/
theorem test_witness_ignored : ∃ t, exec (.stop Config.cfg.C) live = .next t ∧ t.outcome ≠ .done := by
  refine ⟨_, rfl, ?_⟩
  simp [stopOn, channelCause_illegal (Nat.lt_irrefl _), perform_ignored, ignored]

/-- For RecordFieldsChangeOnlyByTheirCommands: STOP clears `active` of channel 0 and the hypotheses hold. -/
theorem test_witness_record : ∃ t b, exec (.stop 0) live = .next t ∧ live.channels[0]? = some liveChannel ∧
    t.channels[0]? = some b ∧ b.active ≠ liveChannel.active := by
  have h0 := test_channel_0_legal
  have hl : 0 < live.channels.length := by rw [test_live_records]; exact h0
  refine ⟨_, { liveChannel with active := false }, rfl, test_live_channel, ?_, by decide⟩
  simp [stopOn, channelCause_legal h0, perform_done, switchOff, test_live_channel]

/-- For SinkFrame: STOP of channel 0 does not write channel 1. -/
theorem test_witness_sink : live.channels.length = Config.cfg.C ∧ (∃ t, exec (.stop 0) live = .next t) ∧
    mayWriteSink Config.cfg live (.stop 0) 1 = false := ⟨test_live_records, ⟨_, rfl⟩, rfl⟩

/-- For RunningChangesOnlyByItsCommands and DriverEdgesFollowTheCommands: START raises `running`, INIT drops it. -/
theorem test_witness_running : (∃ t, exec (.start 0 1 0) idle = .next t ∧ t.running ≠ idle.running ∧ t.outcome = .done) ∧
    ∃ t, exec .init live = .next t ∧ t.running ≠ live.running := by
  constructor
  · refine ⟨_, rfl, ?_⟩
    rw [startOn, startCause_legal test_channel_0_legal (by decide) test_table_0_legal, perform_done]
    exact ⟨by decide, rfl⟩
  · refine ⟨_, rfl, ?_⟩
    simp [initOn, initEffect, live]

/-- For ReservedWordIsIgnored, EveryWordAnswersOnce and PendingTickGoesFirst: both forms of a free cycle, the second being the
state that `withFetchWord` builds. -/
theorem test_witness_free_cycle : FreeCycle idle ∧ FreeCycle (State.reset.withFetchWord 32 0x50000000) ∧
    FreeCycle { idle with tickPending := true, env := [.free, .free] } :=
  ⟨⟨rfl, .inl rfl⟩, ⟨rfl, .inr ⟨_, rfl⟩⟩, ⟨rfl, .inr ⟨_, rfl⟩⟩⟩

/-- For StepRunsTheDecodedCommand, EveryWordAnswersOnce: `idle` has the TICK word on its port and nothing pending. -/
theorem test_witness_accept : idle.rst = false ∧ idle.tickPending = false ∧ idle.cmdPort = some 0x50000000#32 ∧
    decode 0x50000000#32 = .instr .tick ∧ idle.env = [] ∧ { idle with env := [.free] }.env = .free :: [] := by decide

/-- For PendingTickGoesFirst and HostWordIsHeld: a tick pending beside a waiting word. -/
theorem test_witness_pending : idle.rst = false ∧ { idle with tickPending := true }.env = [] ∧ (latchTick idle).tickPending = true ∧
    { idle with env := [.present 0#32] }.cmdPort = some 0x50000000#32 ∧
    { live with env := [.present 0#32] }.cmdPort = none := by decide

/-- For TickPulsesMerge, ResetLeavesResetState, ResetDuringEventKeepsAPrefix: the moves they speak of. -/
theorem test_witness_moves : live.rst = false ∧ { live with env := [.pulse, .pulse] }.env = .pulse :: [.pulse] ∧
    { live with env := [.reset] }.env = .reset :: [] ∧ { idle with env := [.resetDuring 1] }.env = .resetDuring 1 :: [] := by
  decide

/-- For IdleBlockWaits, clause by clause. -/
theorem test_witness_waits : live.rst = false ∧ live.env = [] ∧ live.tickPending = false ∧ live.cmdPort = none ∧
    { live with env := [.free] }.env = .free :: [] := by decide

/-- For MalformedConfigurationIsRefused: both kinds of record. -/
theorem test_witness_config : ¬ { t5 with TABLE_BASE := 4 }.WF ∧ t5.WF := by decide

/-- For InvariantsKeptByEveryStep, SinkHoldsTheLastWrite and SinkStaysCanonical. -/
theorem test_witness_step : Inv Config.cfg idle ∧ idle.sink.wf ∧ ∃ t, step idle = .next t :=
  ⟨test_idle_inv, List.Pairwise.nil, _, rfl⟩

/-- For CommandsReadNoObservation and StepsReadNoObservation: two states that differ in every observation. -/
theorem test_witness_same_block : SameBlock live
    { live with sink := [(0, 7)], trace := [⟨0, 7⟩], responses := [true], outcome := .ignTable, beforeReset := [⟨0, 1⟩] } :=
  ⟨rfl, rfl, rfl, rfl, rfl, rfl⟩

/-- The block in a cycle with `rst_i = 1`, a word waiting. -/
def heldInReset : State := { State.reset with rst := true, cmdPort := some 0x50000000#32 }

/-- For ResetHoldsTheBlock, clause by clause: the level held, the level risen in an event, the level falling. -/
theorem test_witness_held : heldInReset.rst = true ∧ { heldInReset with env := [.reset] }.env = .reset :: [] ∧
    (idle.rst = false ∧ { idle with env := [.resetDuring 0] }.env = .resetDuring 0 :: []) ∧
    (∀ rest, heldInReset.env ≠ .reset :: rest) :=
  ⟨rfl, rfl, ⟨rfl, rfl⟩, fun _ h => by cases h⟩

theorem test_heldInReset_inv : Inv Config.cfg heldInReset where
  records := test_idle_inv.records
  running_eq := test_idle_inv.running_eq
  breathing := test_idle_inv.breathing
  stored := test_idle_inv.stored
  legal := test_idle_inv.legal
  legalBefore := test_idle_inv.legalBefore
  sink_eq := rfl
  held := fun _ => ⟨rfl, rfl, rfl, fun _ => rfl, rfl, rfl⟩

end Sys2Proof.Tests
end

section
/-! One event by the state it starts from (15_interfaces.md R42 to R47): what every command leaves for the response, what
the waiting word and the pending tick do in a free cycle, and the two statements of the interface family that rest on them. -/

namespace Sys2Proof.Machine

/-! The frame of every command -/

/-- Every command is the answer `finish` on a state whose ports and responses are untouched. -/
theorem commandOn_eq_finish (k : Config) (i : Instr) (s : State) :
    ∃ cause u, commandOn k i s = finish cause u ∧ SamePorts s u ∧ u.responses = s.responses := by
  obtain ⟨cause, f, command, -, effects⟩ := commandOn_cases k i s
  rcases perform_cases cause f s with ⟨-, performed⟩ | ⟨-, stopped⟩
  · refine ⟨.done, f s, command.trans performed, ?_⟩
    rcases effects with ⟨-, -, rfl⟩ | ⟨-, -, rfl⟩ | ⟨-, -, rfl⟩ | ⟨c, p, t, -, -, rfl⟩ | ⟨c, -, -, rfl⟩ |
      ⟨c, -, -, rfl⟩ | ⟨c, pc, -, -, rfl⟩
    · exact ⟨by constructor <;> simp [initEffect], by simp [initEffect]⟩
    · exact ⟨⟨rfl, rfl, rfl, rfl, rfl⟩, rfl⟩
    · exact ⟨by constructor <;> simp, by simp⟩
    · exact ⟨⟨rfl, rfl, rfl, rfl, rfl⟩, rfl⟩
    · exact ⟨by constructor <;> simp [switchOff], by simp [switchOff]⟩
    · exact ⟨⟨rfl, rfl, rfl, rfl, rfl⟩, rfl⟩
    · exact ⟨⟨rfl, rfl, rfl, rfl, rfl⟩, rfl⟩
  · exact ⟨cause, s, command.trans stopped, ⟨rfl, rfl, rfl, rfl, rfl⟩, rfl⟩

theorem commandOn_samePorts (k : Config) (i : Instr) (s : State) : SamePorts s (commandOn k i s) := by
  obtain ⟨cause, u, command, ⟨pending, rst, port, env, before⟩, -⟩ := commandOn_eq_finish k i s
  rw [command]
  exact ⟨pending, rst, port, env, before⟩

/-- Every command appends one response, `running` in the state it leaves (R44). -/
theorem commandOn_responses (k : Config) (i : Instr) (s : State) :
    (commandOn k i s).responses = s.responses ++ [(commandOn k i s).running] := by
  obtain ⟨cause, u, command, -, kept⟩ := commandOn_eq_finish k i s
  rw [command, finish_responses, finish_running, kept]

/-! The tick of the pin -/

theorem tickPinOn_responses (k : Config) (s : State) : (tickPinOn k s).responses = s.responses :=
  tickEffect_responses k s

/-- The pin's tick is the TICK command without its response (R44, R45). -/
theorem tickPinOn_eq_tickOn (k : Config) (s : State) :
    tickPinOn k s = { tickOn k s with responses := s.responses } := by
  simp only [tickPinOn, tickOn, finish, ← tickEffect_responses k s]

/-! An accepted word -/

theorem performWord_of_instr {run : Executor} {w : Word} {i : Instr} (decoded : decode w = .instr i) (s : State) :
    performWord run w s = run i { s with cmdPort := none } := by
  rw [performWord, decoded]

theorem performWord_of_reserved {run : Executor} {w : Word} {r : Reserved} (decoded : decode w = .reserved r)
    (s : State) : performWord run w s = .next (ignored .ignReserved { s with cmdPort := none }) := by
  rw [performWord, decoded]; rfl

/-- An accepted word, command or reserved, leaves the port and is answered once (R42, R44, R85). -/
theorem performWord_answers (w : Word) (s : State) :
    ∃ t, performWord exec w s = .next t ∧ t.cmdPort = none ∧ t.responses = s.responses ++ [t.running] := by
  cases decoded : decode w with
  | instr i =>
    refine ⟨_, (performWord_of_instr decoded s).trans (exec_eq i _), ?_, ?_⟩
    · exact (commandOn_samePorts _ i _).cmdPort
    · exact commandOn_responses _ i _
  | reserved r => exact ⟨_, performWord_of_reserved decoded s, rfl, rfl⟩

/-! A step in a free cycle -/

/-- In a free cycle the pending tick is performed, whatever waits on the port (R47). -/
theorem step_of_pendingTick {s : State} (free : FreeCycle s) (pending : s.tickPending = true) :
    step s = .next (tickPinOn Config.cfg { s with tickPending := false, env := s.env.tail }) := by
  rw [step_of_freeCycle free]
  exact if_pos pending

/-- In a free cycle with no tick pending the waiting word is accepted (R42). -/
theorem step_of_waitingWord {s : State} {w : Word} (free : FreeCycle s) (noTick : s.tickPending = false)
    (waiting : s.cmdPort = some w) : step s = performWord exec w { s with env := s.env.tail } := by
  rw [step_of_freeCycle free, arbitrate, if_neg (by simp [noTick])]
  simp only [waiting]

/-! The statements -/

/-- Settles O15: every command word goes through `finish`, a reserved word through `ignoreCommand`, the pin's tick through
neither. -/
theorem everyWordAnswersOnce : Obligations.EveryWordAnswersOnce := by
  refine ⟨fun w s free noTick waiting => ?_, fun s free pending => ?_, fun i s => ?_⟩
  · obtain ⟨t, accepted, port, answered⟩ := performWord_answers w { s with env := s.env.tail }
    exact ⟨t, (step_of_waitingWord free noTick waiting).trans accepted, port, answered⟩
  · exact ⟨_, step_of_pendingTick free pending, tickPinOn_responses _ _⟩
  · exact ⟨_, exec_eq i s, commandOn_responses _ i s⟩

/-- Settles O38: the step is the pin's tick, which differs from the TICK command in the response alone and leaves the port,
so that the word is accepted when the next cycle is free. -/
theorem pendingTickGoesFirst : Obligations.PendingTickGoesFirst := by
  intro s free pending
  have ports := commandOn_samePorts Config.cfg .tick { s with tickPending := false, env := s.env.tail }
  refine ⟨by simp [cmdReady, pending], _, _, exec_eq .tick _, step_of_pendingTick free pending,
    tickPinOn_eq_tickOn _ _, ports.tickPending, ports.cmdPort, ports.env, fun w i waiting decoded freeNext => ?_⟩
  rw [step_of_waitingWord freeNext ports.tickPending (ports.cmdPort.trans waiting), performWord_of_instr decoded]

end Sys2Proof.Machine
end

section
/-! The opcode map against the decoder (30_encoding.md R83, R85, R86): a row's mask and match as a condition on the fields
of the word, rows and decoded instructions in both directions, and the two statements of the encoding family that rest on
them. -/

namespace Sys2Proof

/-! A row as a condition on the fields -/

/-- The fields that the format of `i` leaves unused are zero in `w` (R81). -/
def Instr.unusedZero (i : Instr) (w : Word) : Bool :=
  match i with
  | .init | .isRunning | .tick => onlyOp w
  | .start _ _ _ => true
  | .stop _ | .setFull _ | .setOff _ => onlyChn w
  | .setPercent _ _ => tblField w == 0#4

/-- Mask and match act on each field of the word by itself. -/
theorem and_assemble_eq_assemble {w : Word} {a a' b b' : BitVec 4} {c c' : BitVec 8} {d d' : BitVec 16} :
    w &&& assemble a b c d = assemble a' b' c' d' ↔
      opField w &&& a = a' ∧ tblField w &&& b = b' ∧ chnField w &&& c = c' ∧ argField w &&& d = d' := by
  conv_lhs => rw [← assemble_fields w]
  rw [assemble_and, assemble_inj]

/-- The match of a row is its operation code and no other bit (R83). -/
theorem row_pattern (i : Instr) : i.row.pattern = assemble i.opcode 0#4 0#8 0#16 := by
  cases i <;> simp only [Instr.row, Instr.opcode] <;> decide

/-- A row whose mask covers `op` fixes it, and asks the masked part of the other fields to be zero. -/
theorem selects_iff_of_mask {i : Instr} {b : BitVec 4} {c : BitVec 8} {d : BitVec 16}
    (mask : i.row.mask = assemble 0xF#4 b c d) (w : Word) :
    i.row.Selects w ↔ opField w = i.opcode ∧
      tblField w &&& b = 0#4 ∧ chnField w &&& c = 0#8 ∧ argField w &&& d = 0#16 := by
  have allOp : opField w &&& 0xF#4 = opField w := BitVec.and_allOnes
  rw [OpcodeRow.Selects, mask, row_pattern, and_assemble_eq_assemble, allOp]

/-- A word selects a row when it carries the row's operation code and the unused fields are zero (R81, R83). -/
theorem selects_iff (i : Instr) (w : Word) :
    i.row.Selects w ↔ opField w = i.opcode ∧ i.unusedZero w = true := by
  have allTbl : tblField w &&& 0xF#4 = tblField w := BitVec.and_allOnes
  have allChn : chnField w &&& 0xFF#8 = chnField w := BitVec.and_allOnes
  have allArg : argField w &&& 0xFFFF#16 = argField w := BitVec.and_allOnes
  cases i with
  | init | isRunning | tick =>
    rw [selects_iff_of_mask (b := 0xF#4) (c := 0xFF#8) (d := 0xFFFF#16) rfl, allTbl, allChn, allArg]
    simp [Instr.unusedZero, onlyOp_iff]
  | start c p t =>
    rw [selects_iff_of_mask (b := 0#4) (c := 0#8) (d := 0#16) rfl]; simp [Instr.unusedZero]
  | stop c | setFull c | setOff c =>
    rw [selects_iff_of_mask (b := 0xF#4) (c := 0#8) (d := 0xFFFF#16) rfl, allTbl, allArg]
    simp [Instr.unusedZero, onlyChn_iff]
  | setPercent c pc =>
    rw [selects_iff_of_mask (b := 0xF#4) (c := 0#8) (d := 0#16) rfl, allTbl]; simp [Instr.unusedZero]

/-! Rows and decoded instructions -/

/-- A decoded word selects the row of its instruction. -/
theorem selects_of_decode {w : Word} {i : Instr} (decoded : decode w = .instr i) : i.row.Selects w := by
  rw [selects_iff]
  rcases decode_cases decoded with ⟨op, zero, rfl⟩ | ⟨op, rfl⟩ | ⟨op, zero, rfl⟩ | ⟨op, zero, rfl⟩ | ⟨op, zero, rfl⟩ |
    ⟨op, zero, rfl⟩ | ⟨op, zero, rfl⟩ | ⟨op, zero, rfl⟩
  all_goals simp [Instr.opcode, Instr.unusedZero, *]

/-- A word that selects a row decodes to an instruction of that row. -/
theorem decode_of_selects {w : Word} {j : Instr} (selected : j.row.Selects w) :
    ∃ i, decode w = .instr i ∧ i.row = j.row := by
  obtain ⟨op, zero⟩ := (selects_iff j w).1 selected
  cases j <;> simp only [Instr.opcode, Instr.unusedZero] at op zero <;> simp [decode, op, zero, mustBeZero, Instr.row]

/-- The reserved words of R85 are those the decoder answers so. -/
theorem no_row_iff_decode_reserved (w : Word) :
    (∀ i : Instr, ¬ i.row.Selects w) ↔ ∃ r, decode w = .reserved r := by
  constructor
  · intro none_selected
    cases decoded : decode w with
    | instr i => exact absurd (selects_of_decode decoded) (none_selected i)
    | reserved r => exact ⟨r, rfl⟩
  · rintro ⟨r, reserved⟩ i selected
    obtain ⟨j, decoded, -⟩ := decode_of_selects selected
    simp [reserved] at decoded

/-- Settles O2: a row and the decoder ask the same of the fields, and the decoder gives one answer. -/
theorem decodeSelectsTheOpcodeRow : Obligations.DecodeSelectsTheOpcodeRow := by
  refine fun w j => ⟨⟨decode_of_selects, ?_⟩, fun j' selected selected' => ?_⟩
  · rintro ⟨i, decoded, sameRow⟩
    exact sameRow ▸ selects_of_decode decoded
  · obtain ⟨i, decoded, row⟩ := decode_of_selects selected
    obtain ⟨i', decoded', row'⟩ := decode_of_selects selected'
    obtain rfl : i = i' := Decoded.instr.inj (decoded.symm.trans decoded')
    exact row'.symm.trans row

/-! The reserved words -/

/-- The reserved words by operation code and format (R85). -/
theorem no_row_iff (w : Word) :
    (∀ i : Instr, ¬ i.row.Selects w) ↔
      (opField w).toNat = 0 ∨ 9 ≤ (opField w).toNat ∨
      ((opField w).toNat ∈ [1, 4, 5] ∧ ¬ onlyOp w = true) ∨
      ((opField w).toNat ∈ [3, 6, 8] ∧ ¬ onlyChn w = true) ∨
      ((opField w).toNat = 7 ∧ tblField w ≠ 0) := by
  have byRow : (∀ i : Instr, ¬ i.row.Selects w) ↔
      ∀ i : Instr, (opField w).toNat = i.opcode.toNat → ¬ i.unusedZero w = true := by
    simp only [selects_iff, not_and, BitVec.toNat_inj]
  rw [byRow]
  constructor
  · intro unused
    have init : (opField w).toNat = 1 → ¬ onlyOp w = true := unused .init
    have start : (opField w).toNat = 2 → ¬ true = true := unused (.start 0 0 0)
    have stop : (opField w).toNat = 3 → ¬ onlyChn w = true := unused (.stop 0)
    have isRunning : (opField w).toNat = 4 → ¬ onlyOp w = true := unused .isRunning
    have tick : (opField w).toNat = 5 → ¬ onlyOp w = true := unused .tick
    have setFull : (opField w).toNat = 6 → ¬ onlyChn w = true := unused (.setFull 0)
    have setPercent : (opField w).toNat = 7 → ¬ (tblField w == 0#4) = true := unused (.setPercent 0 0)
    have setOff : (opField w).toNat = 8 → ¬ onlyChn w = true := unused (.setOff 0)
    grind
  · intro reserved i op
    rw [op] at reserved
    cases i <;> simp [Instr.opcode] at reserved <;> simp [Instr.unusedZero, reserved]

/-- Settles O5: a word that selects no row decodes as reserved, so the accepted word is ignored. -/
theorem reservedWordIsIgnored : Obligations.ReservedWordIsIgnored := by
  refine ⟨fun w s noRow free noTick waiting => ?_, fun w => ?_, fun i => ⟨?_, ?_⟩⟩
  · obtain ⟨r, reserved⟩ := (no_row_iff_decode_reserved w).1 noRow
    rw [Machine.step_of_waitingWord free noTick waiting, Machine.performWord_of_reserved reserved]
  · have byFormat := no_row_iff w
    rw [onlyOp_iff, onlyChn_iff] at byFormat
    exact byFormat
  · exact (no_row_iff _).2 (.inl (by decide)) i
  · exact (no_row_iff _).2 (.inr (.inl (by decide))) i

end Sys2Proof
end

section
/-! The commands of engine control (40_engine_control.md R100 to R103): the causes that stop a START, the record it writes,
what STOP and SET_OFF do before the response, what a TICK leaves of an inactive channel, and the four statements of the
family. -/

namespace Sys2Proof.Machine

/-! START (R101) -/

theorem startCause_of_channel_illegal {k : Config} {c : Nat} (hc : k.C ≤ c) (p : Int) (t : Nat) :
    startCause k c p t = .ignIndex :=
  if_pos (Nat.not_lt.2 hc)

theorem startCause_of_period_illegal {k : Config} {c : Nat} {p : Int} (hc : c < k.C) (hp : p ≤ 0) (t : Nat) :
    startCause k c p t = .ignPeriod := by
  rw [startCause, if_neg (not_not_intro hc), if_pos (Int.not_lt.2 hp)]

theorem startCause_of_table_illegal {k : Config} {c t : Nat} {p : Int} (hc : c < k.C) (hp : 0 < p) (ht : k.T ≤ t) :
    startCause k c p t = .ignTable := by
  rw [startCause, if_neg (not_not_intro hc), if_neg (not_not_intro hp), if_pos (Nat.not_lt.2 ht)]

/-- A START that no cause stops is its effect and the answer. -/
theorem startOn_of_legal {k : Config} {c t : Nat} {p : Int} (hc : c < k.C) (hp : 0 < p) (ht : t < k.T) (s : State) :
    startOn k c p t s = finish .done (startEffect c p t s) := by
  rw [startOn, startCause_legal hc hp ht, perform_done]

/-- A START that a cause stops is ignored with that cause (R170). -/
theorem startOn_of_cause {k : Config} {c t : Nat} {p : Int} {cause : Cause} (applies : startCause k c p t = cause)
    (stops : cause ≠ .done) (s : State) : startOn k c p t s = ignored cause s := by
  rw [startOn, applies, perform_ignored stops]

/-- The 16-bit field holds every legal period (R22). -/
theorem startedChannel_period {p : Int} (fits : PeriodFits p) (t : Nat) : (startedChannel p t).period.toInt = p := by
  obtain ⟨low, high⟩ := fits
  exact BitVec.toInt_ofInt_eq_self (by decide) low (by omega)

/-- The 4-bit field holds every legal table index (R23). -/
theorem startedChannel_tbl (p : Int) {t : Nat} (fits : TableFits t) : (startedChannel p t).tbl.toNat = t :=
  Nat.mod_eq_of_lt fits

/-- START replaces the record of its channel. -/
theorem startEffect_getElem?_same {c : Nat} {s : State} (hc : c < s.channels.length) (p : Int) (t : Nat) :
    (startEffect c p t s).channels[c]? = some (startedChannel p t) := by
  simp [hc]

/-- START leaves the record of every other channel. -/
theorem startEffect_getElem?_other {c j : Nat} (h : j ≠ c) (p : Int) (t : Nat) (s : State) :
    (startEffect c p t s).channels[j]? = s.channels[j]? := by
  simp [h.symm]

/-! STOP and SET_OFF before the response (R102, R143) -/

theorem switchOff_getElem? (c : Nat) (s : State) (j : Nat) :
    (switchOff c s).channels[j]? =
      if j = c then (s.channels[j]?).map (fun ch => { ch with active := false }) else s.channels[j]? := by
  by_cases h : j = c
  · subst h; simp [switchOff]
  · simp [switchOff, h, Ne.symm h]

/-- The scan looks at the records after the deactivation. -/
theorem switchOff_running (c : Nat) (s : State) :
    (switchOff c s).running = (s.running && (switchOff c s).channels.any (fun ch => ch.active)) := by
  simp [switchOff, anyActive]

theorem switchOff_trace (c : Nat) (s : State) : (switchOff c s).trace = s.trace ++ [⟨c, 0⟩] := by
  simp [switchOff]

theorem switchOff_read (c : Nat) (s : State) (a : Nat) :
    (switchOff c s).sink.read a = if a = c then some 0 else s.sink.read a := by
  simp [switchOff, Memory.read_write]

theorem switchOff_length (c : Nat) (s : State) : (switchOff c s).channels.length = s.channels.length := by
  simp [switchOff]

theorem switchOff_inactive {c : Nat} {s : State} {ch : Channel} (h : (switchOff c s).channels[c]? = some ch) :
    ch.active = false := by
  rw [switchOff_getElem?, if_pos rfl, Option.map_eq_some_iff] at h
  obtain ⟨_, -, rfl⟩ := h
  rfl

theorem stopOn_of_legal {k : Config} {c : Nat} (hc : c < k.C) (s : State) :
    stopOn k c s = finish .done (switchOff c s) := by
  rw [stopOn, channelCause_legal hc, perform_done]

theorem stopOn_of_illegal {k : Config} {c : Nat} (hc : k.C ≤ c) (s : State) : stopOn k c s = ignored .ignIndex s := by
  rw [stopOn, channelCause_illegal (Nat.not_lt.2 hc), perform_ignored (by decide)]

/-! A TICK and an inactive channel (R120) -/

/-- The writes of a TICK word are those of its walk over the records. -/
theorem newWrites_tickOn {k : Config} {s : State} (h : s.channels.length = k.C) :
    newWrites s (tickOn k s) = tickWritesFrom k 0 s.channels := by
  rw [newWrites, tickOn, finish_trace, tickEffect_trace h, List.drop_left]

section
variable {k : Config} {s : State} {c : Nat} (h : s.channels.length = k.C)
  (inactive : ∀ ch, s.channels[c]? = some ch → ch.active = false)
include h inactive

/-- A TICK makes no write to an inactive channel. -/
theorem writesTo_tickOn_of_inactive : writesTo c (newWrites s (tickOn k s)) = [] := by
  have byRecord := writesTo_tickWritesFrom k 0 c s.channels
  rw [Nat.zero_add] at byRecord
  rw [newWrites_tickOn h, byRecord]
  cases record : s.channels[c]? with
  | none => rfl
  | some ch => simp [inactive ch record]

/-- A TICK leaves the duty of an inactive channel. -/
theorem read_tickOn_of_inactive : (tickOn k s).sink.read c = s.sink.read c := by
  have unwritten := writesTo_tickOn_of_inactive h inactive
  rw [newWrites_tickOn h] at unwritten
  rw [tickOn, finish_sink, tickEffect_sink h, read_writes, lastDuty, unwritten]
  rfl

end

/-! The statements -/

/-- Settles O6: the loop of INIT is the only part that writes, and it starts from records and `running` already zero. -/
theorem initBringsIdleState : Obligations.InitBringsIdleState := by
  refine ⟨by decide, fun s => ?_⟩
  have ports := commandOn_samePorts Config.cfg .init s
  refine ⟨_, exec_eq .init s, ?_, ?_, ?_, ?_, ?_, rfl, ports.rst, ports.cmdPort, ports.env, ports.beforeReset⟩
  · exact allChannelsOff_channels _ _
  · exact allChannelsOff_running _ _
  · exact allChannelsOff_trace _ _
  · exact allChannelsOff_read _ _
  · rw [commandOn_responses]
    exact congrArg (fun b => s.responses ++ [b]) (allChannelsOff_running _ _)

/-- Settles O7: a legal START is its effect, whose fields hold the legal operands exactly; else the first cause applies. -/
theorem startBeginsTheCycle : Obligations.StartBeginsTheCycle := by
  refine fun c p tb s => ⟨fun records hc hp hp' ht => ?_, fun hc => ?_, fun hc hp => ?_, fun hc hp ht => ?_⟩
  · have fits : TableFits tb := Nat.lt_of_lt_of_le ht Config.cfg_wf.tables_le
    exact ⟨finish .done (startEffect c p tb s), startedChannel p tb,
      congrArg Host.Outcome.next (startOn_of_legal hc hp ht s), startEffect_getElem?_same (by omega) p tb, rfl,
      startedChannel_period ⟨by omega, hp'⟩ tb, rfl, startedChannel_tbl p fits,
      fun j other => startEffect_getElem?_other other p tb s,
      rfl, rfl, rfl, rfl, rfl, ⟨rfl, rfl, rfl, rfl, rfl⟩⟩
  · exact congrArg Host.Outcome.next (startOn_of_cause (startCause_of_channel_illegal hc p tb) (by decide) s)
  · exact congrArg Host.Outcome.next (startOn_of_cause (startCause_of_period_illegal hc hp tb) (by decide) s)
  · exact congrArg Host.Outcome.next (startOn_of_cause (startCause_of_table_illegal hc hp ht) (by decide) s)

/-- Settles O8: a legal STOP is `switchOff` and the answer, and leaves its channel inactive, so the TICK passes it over. -/
theorem stopForcesChannelOff : Obligations.StopForcesChannelOff := by
  refine fun c s => ⟨fun hc => ?_, fun hc => congrArg Host.Outcome.next (stopOn_of_illegal hc s)⟩
  have stopped : commandOn Config.cfg (.stop c) s = finish .done (switchOff c s) := stopOn_of_legal hc s
  refine ⟨finish .done (switchOff c s), congrArg Host.Outcome.next stopped, switchOff_getElem? c s,
    switchOff_running c s, switchOff_trace c s, switchOff_read c s, ?_, rfl, ?_, fun records => ?_⟩
  · exact stopped ▸ commandOn_responses Config.cfg (.stop c) s
  · exact stopped ▸ commandOn_samePorts Config.cfg (.stop c) s
  · have records' : (finish .done (switchOff c s)).channels.length = Config.cfg.C :=
      (switchOff_length c s).trans records
    have inactive : ∀ ch, (finish .done (switchOff c s)).channels[c]? = some ch → ch.active = false :=
      fun _ => switchOff_inactive
    have off : (switchOff c s).sink.read c = some 0 := by rw [switchOff_read, if_pos rfl]
    exact ⟨_, exec_eq .tick _, writesTo_tickOn_of_inactive records' inactive,
      (read_tickOn_of_inactive records' inactive).trans off⟩

/-- Settles O9: IS_RUNNING is the response alone, and I1 says what `running` means. -/
theorem isRunningAnswersRunning : Obligations.IsRunningAnswersRunning := by
  refine ⟨by decide, fun s => rfl, fun s inv => ⟨_, rfl, ?_⟩⟩
  exact congrArg (fun b => s.responses ++ [b]) inv.running_eq

end Sys2Proof.Machine
end

section
/-! The TICK command (41_tick.md): the record, the writes and the duty it gives one channel (R120, R125), the duty of R121 on
plain numbers, and three statements of the family. -/

namespace Sys2Proof.Machine

/-! The writes of the walk over the records -/

/-- One write for each active record. -/
theorem length_tickWritesFrom (k : Config) (c : Nat) (chs : List Channel) :
    (tickWritesFrom k c chs).length = (chs.filter (fun ch => ch.active)).length := by
  induction chs generalizing c with
  | nil => rfl
  | cons ch rest ih =>
    cases active : ch.active
    · simp [tickWritesFrom, active, ih]
    · simp [tickWritesFrom, active, ih]

/-- The walk goes up (R125). -/
theorem tickWritesFrom_ascending (k : Config) (c : Nat) (chs : List Channel) :
    (tickWritesFrom k c chs).Pairwise (fun v w => v.channel < w.channel) := by
  induction chs generalizing c with
  | nil => exact List.Pairwise.nil
  | cons ch rest ih =>
    have later : ∀ w ∈ tickWritesFrom k (c + 1) rest, c < w.channel := by
      intro w member
      obtain ⟨j, _, -, -, rfl⟩ := mem_tickWritesFrom.1 member
      exact Nat.lt_add_right j (Nat.lt_succ_self c)
    rw [tickWritesFrom]
    split
    · exact List.pairwise_cons.2 ⟨later, ih (c + 1)⟩
    · exact ih (c + 1)

/-! One channel under a TICK word -/

/-- The writes of a TICK word in every state: the loop stops at channel `C`, the walk at the last record. -/
theorem newWrites_tickOn_take (k : Config) (s : State) :
    newWrites s (tickOn k s) = tickWritesFrom k 0 (s.channels.take k.C) := by
  rw [newWrites, tickOn, finish_trace, tickEffect_eq, tickFirst_trace, List.drop_left]

section
variable {k : Config} {s : State} (h : s.channels.length = k.C)
include h

theorem tickOn_getElem? (c : Nat) : (tickOn k s).channels[c]? = (s.channels[c]?).map (tickRecord k) := by
  rw [tickOn, finish_channels, tickEffect_channels h, List.getElem?_map]

/-- A channel's duty after a TICK word: its last write, or what the sink held. -/
theorem read_tickOn (c : Nat) :
    (tickOn k s).sink.read c = (lastDuty c (newWrites s (tickOn k s))).or (s.sink.read c) := by
  rw [tickOn, finish_sink, tickEffect_sink h, read_writes, ← newWrites_tickOn h, tickOn]

theorem tickOn_getElem?_of_inactive {c : Nat} (inactive : ∀ ch, s.channels[c]? = some ch → ch.active = false) :
    (tickOn k s).channels[c]? = s.channels[c]? := by
  rw [tickOn_getElem? h]
  cases record : s.channels[c]? with
  | none => rfl
  | some ch => simp [tickRecord, inactive ch record]

section
variable {c : Nat} {ch : Channel} (record : s.channels[c]? = some ch) (active : ch.active = true)
include record active

theorem tickOn_getElem?_of_active : (tickOn k s).channels[c]? = some (advanced k ch) := by
  simp [tickOn_getElem? h, record, tickRecord, active]

/-- A TICK makes one write to an active channel, the duty of its own record (R120). -/
theorem writesTo_tickOn_of_active : writesTo c (newWrites s (tickOn k s)) = [⟨c, tickDuty k ch⟩] := by
  have byRecord := writesTo_tickWritesFrom k 0 c s.channels
  rw [Nat.zero_add] at byRecord
  rw [newWrites_tickOn h, byRecord, record]
  exact if_pos active

theorem read_tickOn_of_active : (tickOn k s).sink.read c = some (tickDuty k ch) := by
  rw [read_tickOn h, lastDuty, writesTo_tickOn_of_active h record active]
  rfl

end

/-- The writes of a TICK to a channel depend on that channel's record alone (R125). -/
theorem writesTo_tickOn_congr {s' : State} {c : Nat} (h' : s'.channels.length = k.C)
    (same : s.channels[c]? = s'.channels[c]?) :
    writesTo c (newWrites s (tickOn k s)) = writesTo c (newWrites s' (tickOn k s')) := by
  have byRecord := writesTo_tickWritesFrom k 0 c s.channels
  have byRecord' := writesTo_tickWritesFrom k 0 c s'.channels
  rw [Nat.zero_add] at byRecord byRecord'
  rw [newWrites_tickOn h, newWrites_tickOn h', byRecord, byRecord', same]

end

/-! The ROM reads on plain tables (R60, R62) -/

section
variable {k : Config} (wf : k.WF)
include wf

theorem corrRead_eq_getD {v : Nat} (hv : v < k.N) : corrRead k v = k.CORR.getD v 0 := by
  obtain ⟨-, -, entries⟩ := wf.sized
  have inRange : v < k.CORR.length := by omega
  rw [corrRead_of_lt inRange, List.getElem_eq_getD]

section
variable {t i : Nat} (ht : t < k.T) (hi : i < k.STEPS)
include ht hi

/-- The tables have the sizes of R5, so the ROM is defined at every sample (R61). -/
theorem sample_inRange : ∃ table : t < k.CURVE.length, i < k.CURVE[t].length := by
  obtain ⟨tables, samples, -⟩ := wf.sized
  have table : t < k.CURVE.length := by omega
  refine ⟨table, ?_⟩
  rwa [samples _ (List.getElem_mem table)]

theorem curveRead_eq_getD : curveRead k t i = (k.CURVE.getD t []).getD i 0 := by
  obtain ⟨table, sample⟩ := sample_inRange wf ht hi
  rw [curveRead_of_lt table sample]
  simp [table, sample]

/-- W4 makes every sample an index of the correction table. -/
theorem curveRead_lt : curveRead k t i < k.N := by
  obtain ⟨table, sample⟩ := sample_inRange wf ht hi
  have positive := wf.entries_pos
  have small := wf.sample_le _ (List.getElem_mem table) _ (List.getElem_mem sample)
  rw [curveRead_of_lt table sample]
  omega

end

/-- Steps 5 and 6 on the correction table's entry (R152 to R154). -/
theorem emit_eq_clamp1 {v : Nat} (hv : v < k.N) :
    emit k v = clamp1 (k.CORR.getD v 0 * k.DUTY_MAX / k.CORR_MAX) := by
  rw [emit, correct, corrRead_eq_getD wf hv, scale, quotient_of_pos wf.corr_max_pos]

end

/-! The statements -/

/-- Settles O10: the loop is the walk over the records, and an inactive record is where it neither advances nor writes. -/
theorem tickActsOnEveryActiveChannel : Obligations.TickActsOnEveryActiveChannel := by
  intro s records
  have writes := newWrites_tickOn records
  refine ⟨tickOn Config.cfg s, exec_eq .tick s, tickEffect_channels records, writes, ?_, tickEffect_running _ s, ?_,
    fun a idle => ?_, ?_, rfl, commandOn_samePorts Config.cfg .tick s⟩
  · rw [writes]
    exact tickEffect_trace records
  · rw [writes, length_tickWritesFrom]
  · have inactive : ∀ ch, s.channels[a]? = some ch → ch.active = false := by
      intro ch record
      simpa [record] using idle
    exact ⟨tickOn_getElem?_of_inactive records inactive, read_tickOn_of_inactive records inactive⟩
  · exact (commandOn_responses Config.cfg .tick s).trans
      (congrArg (fun b => s.responses ++ [b]) (tickEffect_running _ s))

/-- Settles O11: under I2 no divisor is zero and both ROM reads are in range, so each step of the model is the plain one. -/
theorem tickChannelInSevenSteps : Obligations.TickChannelInSevenSteps := by
  intro s c ch inv record active M interval phase index raw d duty hM hInterval hPhase hIndex hRaw hD hDuty
  have wf := Config.cfg_wf
  have breathing := inv.breathing ch (List.mem_of_getElem? record) active
  have cycle : cycleLength Config.cfg ch = M := hM.symm
  have phaseStep : nextPhase Config.cfg ch = phase := by rw [nextPhase_eq wf breathing, cycle, hPhase]
  have indexStep : curveIndex Config.cfg ch phase = index := by
    rw [curveIndex_eq wf breathing, cycle, hIndex, hInterval]
  have index_lt : index < Config.cfg.STEPS := indexStep ▸ curveIndex_lt wf breathing phase
  have sample : curveRead Config.cfg ch.tbl.toNat index = raw :=
    (curveRead_eq_getD wf breathing.tbl_lt index_lt).trans hRaw.symm
  have raw_lt : raw < Config.cfg.N := sample ▸ curveRead_lt wf breathing.tbl_lt index_lt
  have rawStep : rawSample Config.cfg ch = raw := by rw [rawSample, phaseStep, indexStep, sample]
  have dutyStep : tickDuty Config.cfg ch = duty := by
    rw [tickDuty, rawStep, emit_eq_clamp1 wf raw_lt, ← hD, clamp1, hDuty]
  refine ⟨tickOn Config.cfg s, advanced Config.cfg ch, exec_eq .tick s,
    tickOn_getElem?_of_active inv.records record active, ?_, active, rfl, rfl, ?_, ?_⟩
  · rw [advanced_phase wf breathing, cycle, hPhase]
  · rw [writesTo_tickOn_of_active inv.records record active, dutyStep]
  · rw [read_tickOn_of_active inv.records record active, dutyStep]

/-- Settles O28: the walk goes up, and what it gives a channel is a function of that channel's record. -/
theorem tickChannelsAscendAndAreIndependent : Obligations.TickChannelsAscendAndAreIndependent := by
  refine ⟨fun s => ⟨_, exec_eq .tick s, ?_⟩, fun s s' c records records' same => ?_⟩
  · exact newWrites_tickOn_take Config.cfg s ▸ tickWritesFrom_ascending _ 0 _
  · refine ⟨tickOn Config.cfg s, tickOn Config.cfg s', exec_eq .tick s, exec_eq .tick s', ?_,
      writesTo_tickOn_congr records records' same, fun isActive => ?_⟩
    · rw [tickOn_getElem? records, tickOn_getElem? records', same]
    · obtain ⟨ch, record, active⟩ := (Option.any_eq_true _ _).1 isActive
      rw [read_tickOn_of_active records record active, read_tickOn_of_active records' (same ▸ record) active]

end Sys2Proof.Machine
end

section
/-! The direct writes (42_direct_pwm.md R140 to R143): SET_FULL and SET_PERCENT as one PWM write and the answer, the causes
that stop them, SET_OFF as STOP, and the three statements of the family. -/

namespace Sys2Proof.Machine

/-! A direct write and its answer -/

theorem read_finish_pwmWrite (cause : Cause) (c d : Nat) (s : State) (a : Nat) :
    (finish cause (pwmWrite c d s)).sink.read a = if a = c then some d else s.sink.read a := by
  rw [finish_sink, pwmWrite_sink, Memory.read_write]

theorem finish_pwmWrite_samePorts (cause : Cause) (c d : Nat) (s : State) :
    SamePorts s (finish cause (pwmWrite c d s)) :=
  ⟨rfl, rfl, rfl, rfl, rfl⟩

/-! SET_FULL (R140) -/

theorem setFullOn_of_legal {k : Config} {c : Nat} (hc : c < k.C) (s : State) :
    setFullOn k c s = finish .done (pwmWrite c k.DUTY_MAX s) := by
  rw [setFullOn, channelCause_legal hc, perform_done]

theorem setFullOn_of_illegal {k : Config} {c : Nat} (hc : k.C ≤ c) (s : State) :
    setFullOn k c s = ignored .ignIndex s := by
  rw [setFullOn, channelCause_illegal (Nat.not_lt.2 hc), perform_ignored (by decide)]

/-! SET_PERCENT (R142, R177) -/

/-- The divisor 100 makes the division the plain one (R156). -/
theorem percentToDuty_eq (k : Config) (pc : Nat) : percentToDuty k pc = pc * k.DUTY_MAX / 100 :=
  quotient_of_pos (by decide)

theorem percentCause_of_channel_illegal {k : Config} {c : Nat} (hc : k.C ≤ c) (pc : Nat) :
    percentCause k c pc = .ignIndex :=
  if_pos (Nat.not_lt.2 hc)

theorem percentCause_of_percent_illegal {k : Config} {c pc : Nat} (hc : c < k.C) (hp : 100 < pc) :
    percentCause k c pc = .ignPercent := by
  rw [percentCause, if_neg (not_not_intro hc), if_pos (Nat.not_le.2 hp)]

theorem setPercentOn_of_legal {k : Config} {c pc : Nat} (hc : c < k.C) (hp : pc ≤ 100) (s : State) :
    setPercentOn k c pc s = finish .done (pwmWrite c (pc * k.DUTY_MAX / 100) s) := by
  rw [setPercentOn, percentCause_legal hc hp, perform_done, percentToDuty_eq]

/-- A SET_PERCENT that a cause stops is ignored with that cause (R170). -/
theorem setPercentOn_of_cause {k : Config} {c pc : Nat} {cause : Cause} (applies : percentCause k c pc = cause)
    (stops : cause ≠ .done) (s : State) : setPercentOn k c pc s = ignored cause s := by
  rw [setPercentOn, applies, perform_ignored stops]

/-! SET_OFF (R143) -/

/-- SET_OFF and STOP are the same `switchOff` under the same cause. -/
theorem exec_setOff_eq_exec_stop (c : Nat) (s : State) : exec (.setOff c) s = exec (.stop c) s := rfl

/-! The statements -/

/-- Settles O12: a legal SET_FULL is one PWM write and the answer, and neither touches a record or `running`. -/
theorem setFullWritesDutyMax : Obligations.SetFullWritesDutyMax := by
  refine fun c s => ⟨fun hc => ?_, fun hc => congrArg Host.Outcome.next (setFullOn_of_illegal hc s)⟩
  exact ⟨_, congrArg Host.Outcome.next (setFullOn_of_legal hc s), rfl, rfl, rfl,
    read_finish_pwmWrite .done c _ s, rfl, rfl, finish_pwmWrite_samePorts .done c _ s⟩

/-- Settles O13: a legal SET_PERCENT is one PWM write of the plain quotient and the answer; else the first cause applies. -/
theorem setPercentWritesLinearDuty : Obligations.SetPercentWritesLinearDuty := by
  refine fun c pc s => ⟨fun hc hp => ?_, fun hc => ?_, fun hc hp => ?_⟩
  · exact ⟨_, congrArg Host.Outcome.next (setPercentOn_of_legal hc hp s), rfl, rfl, rfl,
      read_finish_pwmWrite .done c _ s, rfl, rfl, finish_pwmWrite_samePorts .done c _ s⟩
  · exact congrArg Host.Outcome.next (setPercentOn_of_cause (percentCause_of_channel_illegal hc pc) (by decide) s)
  · exact congrArg Host.Outcome.next (setPercentOn_of_cause (percentCause_of_percent_illegal hc hp) (by decide) s)

/-- Settles O14: SET_OFF is STOP on every state and operand, so what STOP does to the channel is what SET_OFF does. -/
theorem setOffCancelsBreathing : Obligations.SetOffCancelsBreathing := by
  refine fun c s => ⟨fun hc => ?_, (stopForcesChannelOff c s).2, exec_setOff_eq_exec_stop c s⟩
  obtain ⟨t, stopped, channels, running, trace, sink, responses, outcome, ports, -⟩ := (stopForcesChannelOff c s).1 hc
  exact ⟨t, (exec_setOff_eq_exec_stop c s).trans stopped, channels, running, trace, sink, responses, outcome, ports⟩

end Sys2Proof.Machine
end

section
/-! The integer laws of the datapath (43_fixed_point.md R157, R158): the bounds of the four intermediates and the divisors. -/

namespace Sys2Proof.Machine

/-! The intermediates of R157 -/

/-- A product with `DUTY_MAX` is at most the bound of its other factor times 65535, the bound of W7. -/
theorem mul_dutyMax_le {k : Config} {v bound : Nat} (wf : k.WF) (hv : v ≤ bound) : v * k.DUTY_MAX ≤ bound * 65535 :=
  Nat.mul_le_mul hv wf.duty_max_le

/-- The phase on 32 bits is the exact phase after the advance: the cycle is shorter than `2^31`. -/
theorem advanced_phase_eq_nextPhase {k : Config} {ch : Channel} (wf : k.WF) (breathing : Breathing k ch) :
    (advanced k ch).phase.toNat = nextPhase k ch :=
  (advanced_phase wf breathing).trans (nextPhase_eq wf breathing).symm

/-! The statements -/

/-- Settles O35: the rows of R157's table, the phase by I2 and the products by W6 and W7. -/
theorem nothingOverflows : Obligations.NothingOverflows := by
  refine fun k wf => ⟨fun ch => cycleLength_le wf, fun ch breathing => ?_, fun v hv => ?_, fun pc hpc => ?_⟩
  · exact ⟨breathing.phase_lt, advanced_phase_eq_nextPhase wf breathing⟩
  · exact mul_dutyMax_le wf (hv.trans wf.corr_max_le)
  · exact mul_dutyMax_le wf hpc

/-- Settles O36: `STEPS` by W3, the cycle and the interval by W3 and I2, `CORR_MAX` by W6. -/
theorem noDivisorIsZero : Obligations.NoDivisorIsZero :=
  fun _ _ wf breathing => ⟨wf.steps_pos, cycleLength_pos wf breathing, interval_pos wf breathing, wf.corr_max_pos⟩

end Sys2Proof.Machine
end

section
/-! The outcome of a command word (60_exceptions.md R170, R171, R177): which labels a command gives, what an ignored command
leaves, and the commands that are never ignored. -/

namespace Sys2Proof.Machine

/-- The decoder's cause IGN_RESERVED is not a command's (R177). -/
theorem commandOn_outcome_ne_ignReserved (k : Config) (i : Instr) (s : State) :
    (commandOn k i s).outcome ≠ .ignReserved := by
  obtain ⟨cause, f, command, notReserved, -⟩ := commandOn_cases k i s
  rw [command]
  rcases perform_cases cause f s with ⟨-, performed⟩ | ⟨-, stopped⟩
  · rw [performed, finish_outcome]
    decide
  · rw [stopped]
    exact notReserved

/-- INIT, IS_RUNNING and TICK have no cause that stops them (R171). -/
theorem commandOn_outcome_of_neverIgnored (k : Config) {i : Instr} (s : State)
    (never : i = .init ∨ i = .isRunning ∨ i = .tick) : (commandOn k i s).outcome = .done := by
  rcases never with rfl | rfl | rfl
  · exact finish_outcome .done (initEffect k s)
  · exact finish_outcome .done s
  · exact finish_outcome .done (tickEffect k s)

/-- A command labelled otherwise than DONE is the answer and the label on the old state (R170). -/
theorem commandOn_eq_ignored {k : Config} {i : Instr} {s : State} (stops : (commandOn k i s).outcome ≠ .done) :
    commandOn k i s = ignored (commandOn k i s).outcome s := by
  obtain ⟨cause, f, command, -, -⟩ := commandOn_cases k i s
  rw [command] at stops ⊢
  rcases perform_cases cause f s with ⟨-, performed⟩ | ⟨-, stopped⟩
  · rw [performed, finish_outcome] at stops
    exact absurd rfl stops
  · rw [stopped]
    rfl

/-- Settles O16: a label other than DONE is the cause that stopped the command, and no cause stops the three commands without
operands. -/
theorem ignoredCommandChangesNothing : Obligations.IgnoredCommandChangesNothing := by
  intro i s t next
  obtain rfl : commandOn Config.cfg i s = t := Host.Outcome.next.inj ((exec_eq i s).symm.trans next)
  refine ⟨fun stops => ?_, commandOn_outcome_ne_ignReserved _ i s⟩
  have listed := mt (commandOn_outcome_of_neverIgnored Config.cfg s) stops
  obtain ⟨notInit, notIsRunning, notTick⟩ : i ≠ .init ∧ i ≠ .isRunning ∧ i ≠ .tick := by simpa using listed
  exact ⟨commandOn_eq_ignored stops, notInit, notIsRunning, notTick⟩

end Sys2Proof.Machine
end

section
/-! Reset in the middle of an event (70_reset_and_hazards.md R202): every event only appends to the trace, so the writes made
before `rst_i` rises are the old trace and a prefix of the event's own. -/

namespace Sys2Proof.Machine

/-! An event appends to the trace (R27) -/

theorem tickEffect_trace_prefix (k : Config) (s : State) : s.trace <+: (tickEffect k s).trace := by
  rw [tickEffect_eq, tickFirst_trace]
  exact List.prefix_append _ _

theorem commandOn_trace_prefix (k : Config) (i : Instr) (s : State) : s.trace <+: (commandOn k i s).trace := by
  obtain ⟨cause, f, command, -, effects⟩ := commandOn_cases k i s
  rw [command]
  rcases perform_cases cause f s with ⟨-, performed⟩ | ⟨-, stopped⟩
  · rw [performed, finish_trace]
    rcases effects with ⟨-, -, rfl⟩ | ⟨-, -, rfl⟩ | ⟨-, -, rfl⟩ | ⟨c, p, t, -, -, rfl⟩ | ⟨c, -, -, rfl⟩ |
      ⟨c, -, -, rfl⟩ | ⟨c, pc, -, -, rfl⟩
    · simp [initEffect, allChannelsOff_trace]
    · exact List.prefix_rfl
    · exact tickEffect_trace_prefix k s
    · exact List.prefix_rfl
    · exact switchOff_trace c s ▸ List.prefix_append _ _
    · exact List.prefix_append _ _
    · exact List.prefix_append _ _
  · rw [stopped]
    exact List.prefix_rfl

/-- One event of the arbiter appends its writes to the trace and leaves those before the last reset. -/
theorem arbitrate_appends (s : State) :
    ∃ u, arbitrate exec Config.cfg s = .next u ∧ s.trace <+: u.trace ∧ u.beforeReset = s.beforeReset := by
  obtain ⟨u, event, cases⟩ := arbitrate_cases Config.cfg s
  refine ⟨u, exec_eq_fun ▸ event, ?_⟩
  rcases cases with ⟨-, rfl⟩ | ⟨-, w, i, -, -, rfl⟩ | ⟨-, w, r, -, -, rfl⟩ | ⟨-, -, rfl⟩
  · exact ⟨tickEffect_trace_prefix _ { s with tickPending := false }, tickEffect_beforeReset _ _⟩
  · exact ⟨commandOn_trace_prefix _ i { s with cmdPort := none }, (commandOn_samePorts _ i _).beforeReset⟩
  · exact ⟨List.prefix_rfl, rfl⟩
  · exact ⟨List.prefix_rfl, rfl⟩

/-! The cut -/

/-- Of a trace that the event appended to, the cut keeps the old trace and the first `n` new writes. -/
theorem take_trace_eq_append_newWrites {s u : State} (appended : s.trace <+: u.trace) (n : Nat) :
    u.trace.take (s.trace.length + n) = s.trace ++ (newWrites s u).take n := by
  obtain ⟨ws, trace⟩ := appended
  rw [newWrites, ← trace, List.take_length_add_append, List.drop_left]

theorem resetBlock_isReset (k : Config) (received : List PwmWrite) (s : State) :
    BlockIsReset k (resetBlock k received s) :=
  ⟨rfl, rfl, rfl, fun _ => rfl, rfl, rfl⟩

/-- The rise of `rst_i` in an event is that event, abandoned. -/
theorem step_of_resetDuring {s : State} {n : Nat} {rest : List Stimulus} (low : s.rst = false)
    (h : s.env = .resetDuring n :: rest) :
    step s = abandonEvent Config.cfg n s (arbitrate exec Config.cfg { s with env := rest }) := by
  rw [step_of_rst_low low, stepOutOfReset, h]

/-- Settles O43: the undisturbed event and the abandoned one are the same event of the arbiter, which appends to the trace. -/
theorem resetDuringEventKeepsAPrefix : Obligations.ResetDuringEventKeepsAPrefix := by
  intro s n rest low rises
  obtain ⟨u, event, appended, before⟩ := arbitrate_appends { s with env := rest }
  have undisturbed : FreeCycle { s with env := .free :: rest } := ⟨low, .inr ⟨rest, rfl⟩⟩
  refine ⟨_, u, (step_of_resetDuring low rises).trans (congrArg (abandonEvent Config.cfg n s) event),
    (step_of_freeCycle undisturbed).trans event, ?_, resetBlock_isReset _ _ u⟩
  rw [resetBlock_beforeReset, take_trace_eq_append_newWrites (s := s) appended, ← List.append_assoc]
  exact congrArg (fun received => received ++ s.trace ++ _) before

end Sys2Proof.Machine
end

section
/-! Encoding and decoding as inverses of each other (30_encoding.md R81, R82, R86). -/

namespace Sys2Proof

/-! What the fields give back -/

/-- A field of `n` bits gives back every number that fits it (R82). -/
theorem toNat_ofNat_of_fits {n v : Nat} (fits : v < 2 ^ n) : (BitVec.ofNat n v).toNat = v :=
  Nat.mod_eq_of_lt fits

/-- The signed argument gives back every period that fits it (R82). -/
theorem toInt_ofInt_of_periodFits {p : Int} (fits : PeriodFits p) : (BitVec.ofInt 16 p).toInt = p := by
  obtain ⟨low, high⟩ := fits
  exact BitVec.toInt_ofInt_eq_self (by decide) low (by omega)

/-- The signed value of the argument fits the period's range (R82). -/
theorem periodFits_toInt (arg : BitVec 16) : PeriodFits arg.toInt := by
  have low := BitVec.le_toInt arg
  have high := BitVec.toInt_lt (x := arg)
  exact ⟨by omega, by omega⟩

/-! The decoder on an assembled word, row by row -/

section
variable (c : BitVec 8) (arg : BitVec 16)

/-- A word of format Z whose unused fields are zero decodes. -/
theorem decode_formatZ {i : Instr} (row : i = .init ∨ i = .isRunning ∨ i = .tick) :
    decode (assemble i.opcode 0 0 0) = .instr i := by
  rcases row with rfl | rfl | rfl <;> decide

/-- A word of format C whose unused fields are zero decodes to the command on its channel. -/
theorem decode_formatC {i : Instr} (row : i = .stop c.toNat ∨ i = .setFull c.toNat ∨ i = .setOff c.toNat) :
    decode (assemble i.opcode 0 c 0) = .instr i := by
  rcases row with rfl | rfl | rfl <;> simp [decode, Instr.opcode, onlyChn]

theorem decode_formatCA :
    decode (assemble (Instr.setPercent c.toNat arg.toNat).opcode 0 c arg) = .instr (.setPercent c.toNat arg.toNat) := by
  simp [decode, Instr.opcode]

theorem decode_formatS (tbl : BitVec 4) :
    decode (assemble (Instr.start c.toNat arg.toInt tbl.toNat).opcode tbl c arg) =
      .instr (.start c.toNat arg.toInt tbl.toNat) := by
  simp [decode, Instr.opcode]

end

/-- Settles O3: each format decodes to the values of its fields, and a field gives back the operand that fits it. -/
theorem decodeOfEncode : Obligations.DecodeOfEncode := by
  intro i fits
  cases i with
  | init => exact decode_formatZ (.inl rfl)
  | isRunning => exact decode_formatZ (.inr (.inl rfl))
  | tick => exact decode_formatZ (.inr (.inr rfl))
  | start c p t =>
    simp only [Instr.wf, Bool.and_eq_true, decide_eq_true_eq] at fits
    obtain ⟨⟨chn, period⟩, tbl⟩ := fits
    have fields := decode_formatS (BitVec.ofNat 8 c) (BitVec.ofInt 16 p) (BitVec.ofNat 4 t)
    rwa [toNat_ofNat_of_fits chn, toInt_ofInt_of_periodFits period, toNat_ofNat_of_fits tbl] at fields
  | stop c =>
    have chn : (BitVec.ofNat 8 c).toNat = c := toNat_ofNat_of_fits (of_decide_eq_true fits)
    exact decode_formatC _ (.inl (congrArg Instr.stop chn.symm))
  | setFull c =>
    have chn : (BitVec.ofNat 8 c).toNat = c := toNat_ofNat_of_fits (of_decide_eq_true fits)
    exact decode_formatC _ (.inr (.inl (congrArg Instr.setFull chn.symm)))
  | setOff c =>
    have chn : (BitVec.ofNat 8 c).toNat = c := toNat_ofNat_of_fits (of_decide_eq_true fits)
    exact decode_formatC _ (.inr (.inr (congrArg Instr.setOff chn.symm)))
  | setPercent c pc =>
    simp only [Instr.wf, Bool.and_eq_true, decide_eq_true_eq] at fits
    obtain ⟨chn, percent⟩ := fits
    have fields := decode_formatCA (BitVec.ofNat 8 c) (BitVec.ofNat 16 pc)
    rwa [toNat_ofNat_of_fits chn, toNat_ofNat_of_fits percent] at fields

/-- What the decoder answers fits the fields it was read from (R82). -/
theorem wf_of_decode {w : Word} {i : Instr} (decoded : decode w = .instr i) : i.wf = true := by
  have chn : ChannelFits (chnField w).toNat := (chnField w).isLt
  have tbl : TableFits (tblField w).toNat := (tblField w).isLt
  have percent : PercentFits (argField w).toNat := (argField w).isLt
  have period := periodFits_toInt (argField w)
  rcases decode_cases decoded with ⟨-, -, rfl⟩ | ⟨-, rfl⟩ | ⟨-, -, rfl⟩ | ⟨-, -, rfl⟩ | ⟨-, -, rfl⟩ |
    ⟨-, -, rfl⟩ | ⟨-, -, rfl⟩ | ⟨-, -, rfl⟩
  all_goals simp [Instr.wf, chn, tbl, percent, period]

/-- The encoder puts back the fields that the decoder has read, and zero where it asked for zero (R81). -/
theorem encode_of_decode {w : Word} {i : Instr} (decoded : decode w = .instr i) :
    encode i = assemble (opField w) (tblField w) (chnField w) (argField w) := by
  have row := decode_cases decoded
  simp only [onlyOp_iff, onlyChn_iff] at row
  rcases row with ⟨op, zero, rfl⟩ | ⟨op, rfl⟩ | ⟨op, zero, rfl⟩ | ⟨op, zero, rfl⟩ | ⟨op, zero, rfl⟩ |
    ⟨op, zero, rfl⟩ | ⟨op, zero, rfl⟩ | ⟨op, zero, rfl⟩
  all_goals simp [encode, Instr.opcode, *]

/-- Settles O4: the operands are values of the fields, and the word is the assembly of its fields. -/
theorem encodeOfDecode : Obligations.EncodeOfDecode :=
  fun w _ decoded => ⟨wf_of_decode decoded, (encode_of_decode decoded).trans (assemble_fields w)⟩

/-- Settles O1: the decoder run on the words of section 6. -/
theorem specWordsDecode : Obligations.SpecWordsDecode := by
  unfold Obligations.SpecWordsDecode
  decide

end Sys2Proof
end

section
/-! The datapath's pure functions (43_fixed_point.md R150 to R156) and one channel's arithmetic in a tick (41_tick.md R122 to
R124): monotone, in range, and the curve index past the last whole interval. -/

namespace Sys2Proof.Machine

section
variable {k : Config} (wf : k.WF)
include wf

/-! Correction (R150, R151) -/

/-- In range the correction is an entry of the table. -/
theorem correct_mem {v : Nat} (hv : v < k.N) : k.CORR[v]? = some (correct k v) := by
  obtain ⟨-, -, entries⟩ := wf.sized
  have inRange : v < k.CORR.length := by omega
  rw [correct, corrRead_of_lt inRange, List.getElem?_eq_getElem inRange]

theorem correct_le {v : Nat} (hv : v < k.N) : correct k v ≤ k.CORR_MAX :=
  wf.entry_le _ (List.mem_of_getElem? (correct_mem wf hv))

theorem correct_le_correct {a b : Nat} (hab : a ≤ b) (hb : b < k.N) : correct k a ≤ correct k b := by
  induction b, hab using Nat.le_induction with
  | base => exact Nat.le_refl _
  | succ b hab ih =>
    have rises : correct k b ≤ correct k (b + 1) := by
      rw [correct, correct, corrRead_eq_getD wf hb, corrRead_eq_getD wf (by omega)]
      exact wf.rising b (by omega)
    exact (ih (by omega)).trans rises

/-! The scale and the clamp (R152 to R155) -/

theorem scale_eq (v : Nat) : scale k v = v * k.DUTY_MAX / k.CORR_MAX := quotient_of_pos wf.corr_max_pos

theorem scale_le_scale {v w : Nat} (h : v ≤ w) : scale k v ≤ scale k w := by
  rw [scale_eq wf, scale_eq wf]
  exact Nat.div_le_div_right (Nat.mul_le_mul_right _ h)

theorem scale_corrMax : scale k k.CORR_MAX = k.DUTY_MAX := by
  rw [scale_eq wf, Nat.mul_div_cancel_left _ wf.corr_max_pos]

theorem scale_le {v : Nat} (h : v ≤ k.CORR_MAX) : scale k v ≤ k.DUTY_MAX :=
  scale_corrMax wf ▸ scale_le_scale wf h

omit wf in
theorem clamp1_eq_max (d : Nat) : clamp1 d = max 1 d := by
  unfold clamp1; split <;> omega

omit wf in
theorem emit_eq_max (k : Config) (raw : Nat) : emit k raw = max 1 (scale k (correct k raw)) := clamp1_eq_max _

omit wf in
theorem one_le_emit (k : Config) (raw : Nat) : 1 ≤ emit k raw := by
  rw [emit_eq_max]; exact Nat.le_max_left ..

theorem emit_le {raw : Nat} (h : raw < k.N) : emit k raw ≤ k.DUTY_MAX := by
  rw [emit_eq_max]
  exact Nat.max_le.2 ⟨wf.duty_max_pos, scale_le wf (correct_le wf h)⟩

/-- The clamp acts, or the scale is 1, exactly below two units of the scale (R155 (c)). -/
theorem emit_eq_one_iff (raw : Nat) : emit k raw = 1 ↔ correct k raw * k.DUTY_MAX < 2 * k.CORR_MAX := by
  rw [emit_eq_max, scale_eq wf, ← Nat.div_lt_iff_lt_mul wf.corr_max_pos]
  omega

theorem emit_le_emit {a b : Nat} (hab : a ≤ b) (hb : b < k.N) : emit k a ≤ emit k b := by
  rw [emit_eq_max, emit_eq_max]
  exact max_le_max_left 1 (scale_le_scale wf (correct_le_correct wf hab hb))

/-! Percent to duty (R156) -/

omit wf in
theorem percentToDuty_le_percentToDuty (k : Config) {a b : Nat} (h : a ≤ b) : percentToDuty k a ≤ percentToDuty k b := by
  rw [percentToDuty_eq, percentToDuty_eq]
  exact Nat.div_le_div_right (Nat.mul_le_mul_right _ h)

omit wf in
theorem percentToDuty_full (k : Config) : percentToDuty k 100 = k.DUTY_MAX := by
  rw [percentToDuty_eq, Nat.mul_div_cancel_left _ (by decide)]

omit wf in
theorem percentToDuty_le (k : Config) {pc : Nat} (h : pc ≤ 100) : percentToDuty k pc ≤ k.DUTY_MAX :=
  percentToDuty_full k ▸ percentToDuty_le_percentToDuty k h

/-! One channel of a tick under I2 -/

section
variable {ch : Channel} (breathing : Breathing k ch)
include breathing

theorem rawSample_lt : rawSample k ch < k.N :=
  curveRead_lt wf breathing.tbl_lt (curveIndex_lt wf breathing _)

/-- I3 and R129 for the duty of a tick. -/
theorem tickDuty_mem : 1 ≤ tickDuty k ch ∧ tickDuty k ch ≤ k.DUTY_MAX :=
  ⟨one_le_emit k _, emit_le wf (rawSample_lt wf breathing)⟩

/-- A phase within the whole intervals is in the interval of its quotient (R123). -/
theorem curveIndex_of_lt {phase : Nat} (h : phase < interval k ch * k.STEPS) :
    curveIndex k ch phase = phase / interval k ch := by
  rw [curveIndex_eq wf breathing, ← interval_eq wf]
  exact Nat.mod_eq_of_lt (Nat.div_lt_of_lt_mul h)

/-- The phases that STEPS leaves over are fewer than one more table, and start at its beginning (R128). -/
theorem curveIndex_of_le {phase : Nat} (inCycle : phase < cycleLength k ch) (h : interval k ch * k.STEPS ≤ phase) :
    curveIndex k ch phase = phase / interval k ch - k.STEPS := by
  have positive := interval_pos wf breathing
  have leftOver : cycleLength k ch < interval k ch * k.STEPS + k.STEPS := by
    rw [interval_eq wf]
    exact Nat.lt_div_mul_add wf.steps_pos
  have oneInterval : k.STEPS ≤ interval k ch * k.STEPS := Nat.le_mul_of_pos_left _ positive
  have past : k.STEPS ≤ phase / interval k ch := (Nat.le_div_iff_mul_le positive).2 (by rwa [Nat.mul_comm])
  have below : phase / interval k ch < k.STEPS + k.STEPS := by
    refine Nat.div_lt_of_lt_mul ?_
    rw [Nat.mul_add]
    omega
  rw [curveIndex_eq wf breathing, ← interval_eq wf, Nat.mod_eq_sub_mod past, Nat.mod_eq_of_lt (by omega)]

end

end

/-! The statements -/

/-- Settles O31: W5 compares neighbours, so the table is non-decreasing by induction. -/
theorem correctIsMonotone : Obligations.CorrectIsMonotone := fun _ _ _ wf => correct_le_correct wf

/-- Settles O32: with CORR_MAX positive the quotient is the plain one, exact at both ends. -/
theorem scaleIsLinear : Obligations.ScaleIsLinear := by
  refine fun k wf => ⟨scale_eq wf, ?_, scale_corrMax wf, fun _ => scale_le wf, fun _ _ => scale_le_scale wf,
    fun same v => ?_⟩
  · rw [scale_eq wf, Nat.zero_mul, Nat.zero_div]
  · rw [scale_eq wf, same, Nat.mul_div_cancel _ wf.duty_max_pos]

/-- Settles O33: the clamp is the maximum with 1, so `emit` has the scale's order and its upper end. -/
theorem emitRange : Obligations.EmitRange :=
  fun k wf => ⟨fun raw h => ⟨one_le_emit k raw, emit_le wf h, emit_eq_one_iff wf raw⟩, fun _ _ => emit_le_emit wf⟩

/-- Settles O34: the divisor is the constant 100. -/
theorem percentToDutyIsLinear : Obligations.PercentToDutyIsLinear := by
  refine fun k => ⟨percentToDuty_eq k, ?_, percentToDuty_full k, fun _ => percentToDuty_le k,
    fun _ _ => percentToDuty_le_percentToDuty k⟩
  rw [percentToDuty_eq, Nat.zero_mul, Nat.zero_div]

/-- Settles O24: below the cycle length the remainder of the increment is itself, at it 0. -/
theorem phaseAdvanceIsCompareAndClear : Obligations.PhaseAdvanceIsCompareAndClear := by
  intro k ch wf breathing
  have inCycle : ch.phase.toNat + 1 ≤ cycleLength k ch := breathing.phase_lt
  rw [advanced_phase wf breathing, ← cycleLength]
  split
  case isTrue wraps => rw [wraps, Nat.mod_self]
  case isFalse within => exact Nat.mod_eq_of_lt (Nat.lt_of_le_of_ne inCycle within)

/-- Settles O25: the index is below STEPS, and W4 makes the sample an index of the correction table. -/
theorem tickReadsAreInRange : Obligations.TickReadsAreInRange := by
  intro k ch wf breathing
  obtain ⟨table, sample⟩ := sample_inRange wf breathing.tbl_lt (curveIndex_lt wf breathing (nextPhase k ch))
  exact ⟨_, rawSample k ch, _, List.getElem?_eq_getElem table,
    (List.getElem?_eq_getElem sample).trans (congrArg some (curveRead_of_lt table sample).symm), rfl,
    correct_mem wf (rawSample_lt wf breathing), rfl⟩

/-- Settles O30: the quotient is below STEPS in the whole intervals, and below twice STEPS in the rest of the cycle. -/
theorem indexWrapsWhenStepsDoNotDivide : Obligations.IndexWrapsWhenStepsDoNotDivide := by
  refine fun k ch phase wf breathing inCycle =>
    ⟨curveIndex_of_lt wf breathing, curveIndex_of_le wf breathing inCycle, fun divides => ?_⟩
  rw [interval_eq wf, Nat.div_mul_cancel divides]

end Sys2Proof.Machine
end

section
/-! Every command field by field (10_state.md R29): its cause, its PWM writes, the record it leaves for each it found, and
`running`, each as a function of what the block can read. -/

namespace Sys2Proof.Machine

/-! The two parts of a command: the cause that can stop it and its effect -/

/-- The outcome of a command (60_exceptions.md R171, R177). -/
def commandCause (k : Config) (i : Instr) : Cause :=
  match i with
  | .init | .isRunning | .tick => .done
  | .start c p t => startCause k c p t
  | .stop c | .setFull c | .setOff c => channelCause k c
  | .setPercent c pc => percentCause k c pc

/-- What a command that no cause stops does before its response. -/
def commandEffect (k : Config) (i : Instr) : State → State :=
  match i with
  | .init => initEffect k
  | .start c p t => startEffect c p t
  | .stop c | .setOff c => switchOff c
  | .isRunning => id
  | .tick => tickEffect k
  | .setFull c => pwmWrite c k.DUTY_MAX
  | .setPercent c pc => pwmWrite c (percentToDuty k pc)

theorem commandOn_eq_perform (k : Config) (i : Instr) (s : State) :
    commandOn k i s = perform (commandCause k i) (commandEffect k i) s := by
  cases i <;> rfl

/-- What the answer leaves alone is that of the effect, or of the old state when a cause stops the command. -/
theorem commandOn_field {α : Type} (g : State → α) (answer : ∀ cause s, g (finish cause s) = g s)
    (k : Config) (i : Instr) (s : State) :
    g (commandOn k i s) = if commandCause k i = .done then g (commandEffect k i s) else g s := by
  rw [commandOn_eq_perform]
  rcases perform_cases (commandCause k i) (commandEffect k i) s with ⟨done, performed⟩ | ⟨stops, stopped⟩
  · rw [performed, if_pos done, answer]
  · rw [if_neg stops, stopped]
    exact answer (commandCause k i) s

/-- The label of a command is its cause, in every state. -/
theorem commandOn_outcome (k : Config) (i : Instr) (s : State) : (commandOn k i s).outcome = commandCause k i := by
  rw [commandOn_eq_perform]
  rcases perform_cases (commandCause k i) (commandEffect k i) s with ⟨done, performed⟩ | ⟨-, stopped⟩
  · rw [performed, done, finish_outcome]
  · rw [stopped]; rfl

/-! The PWM writes -/

/-- From `s` to `t` the sink takes the writes `ws`, and the trace records them (R27, R49). -/
structure Writes (s t : State) (ws : List PwmWrite) : Prop where
  trace : t.trace = s.trace ++ ws
  sink : t.sink = ws.foldl (fun m w => m.write w.channel w.duty) s.sink

theorem Writes.none (s : State) : Writes s s [] := ⟨(List.append_nil _).symm, rfl⟩

theorem Writes.read {s t : State} {ws : List PwmWrite} (h : Writes s t ws) (a : Nat) :
    t.sink.read a = (lastDuty a ws).or (s.sink.read a) := by
  rw [h.sink, read_writes]

theorem pwmWrite_writes (c d : Nat) (s : State) : Writes s (pwmWrite c d s) [⟨c, d⟩] := ⟨rfl, rfl⟩

theorem switchOff_writes (c : Nat) (s : State) : Writes s (switchOff c s) [⟨c, 0⟩] :=
  ⟨switchOff_trace c s, by simp [switchOff]⟩

theorem allChannelsOff_writes (n : Nat) (s : State) :
    Writes s (allChannelsOff n s) ((List.range n).map (fun c => ⟨c, 0⟩)) := by
  refine ⟨allChannelsOff_trace n s, ?_⟩
  rw [List.foldl_map, allChannelsOff]
  exact (List.foldl_hom State.sink fun _ _ => rfl).symm

theorem tickEffect_writes (k : Config) (s : State) :
    Writes s (tickEffect k s) (tickWritesFrom k 0 (s.channels.take k.C)) :=
  ⟨tickFirst_trace k k.C s, tickFirst_sink k k.C s⟩

/-- The PWM writes of a command's effect, from the records it finds (20_memory.md R64). -/
def effectWrites (k : Config) (i : Instr) (chs : List Channel) : List PwmWrite :=
  match i with
  | .init => (List.range k.C).map (fun c => ⟨c, 0⟩)
  | .start _ _ _ | .isRunning => []
  | .stop c | .setOff c => [⟨c, 0⟩]
  | .tick => tickWritesFrom k 0 (chs.take k.C)
  | .setFull c => [⟨c, k.DUTY_MAX⟩]
  | .setPercent c pc => [⟨c, percentToDuty k pc⟩]

/-- The PWM writes of a command word: those of its effect, or none when a cause stops it (R170). -/
def commandWrites (k : Config) (i : Instr) (chs : List Channel) : List PwmWrite :=
  if commandCause k i = .done then effectWrites k i chs else []

theorem commandEffect_writes (k : Config) (i : Instr) (s : State) :
    Writes s (commandEffect k i s) (effectWrites k i s.channels) := by
  cases i with
  | init => exact ⟨(allChannelsOff_writes k.C _).trace, (allChannelsOff_writes k.C _).sink⟩
  | start c p t => exact ⟨(List.append_nil _).symm, rfl⟩
  | stop c | setOff c => exact switchOff_writes c s
  | isRunning => exact Writes.none s
  | tick => exact tickEffect_writes k s
  | setFull c | setPercent c pc => exact pwmWrite_writes c _ s

theorem commandOn_writes (k : Config) (i : Instr) (s : State) :
    Writes s (commandOn k i s) (commandWrites k i s.channels) := by
  have trace := commandOn_field State.trace (fun _ _ => rfl) k i s
  have sink := commandOn_field State.sink (fun _ _ => rfl) k i s
  have effect := commandEffect_writes k i s
  unfold commandWrites
  split
  case isTrue done =>
    rw [if_pos done] at trace sink
    exact ⟨trace.trans effect.trace, sink.trans effect.sink⟩
  case isFalse stops =>
    rw [if_neg stops] at trace sink
    exact ⟨trace.trans (List.append_nil _).symm, sink⟩

/-! The records -/

/-- What a command's effect makes of record `j`. -/
def effectRecord (k : Config) (i : Instr) (j : Nat) (ch : Channel) : Channel :=
  match i with
  | .init => Channel.zero
  | .start c p t => if j = c then startedChannel p t else ch
  | .stop c | .setOff c => if j = c then { ch with active := false } else ch
  | .tick => if j < k.C then tickRecord k ch else ch
  | .isRunning | .setFull _ | .setPercent _ _ => ch

/-- What a command word makes of record `j`. -/
def commandRecord (k : Config) (i : Instr) (j : Nat) (ch : Channel) : Channel :=
  if commandCause k i = .done then effectRecord k i j ch else ch

/-- An effect on record `c` alone, as a function of the record's place. -/
theorem getElem?_modify_eq_map (l : List Channel) (c : Nat) (f : Channel → Channel) (j : Nat) :
    (l.modify c f)[j]? = (l[j]?).map (fun ch => if j = c then f ch else ch) := by
  rw [List.getElem?_modify]
  simp only [eq_comm (a := c), Option.map_eq_map]

/-- Each record after an effect comes from the one in its place; INIT, which lays out the store anew, needs `C` of them. -/
theorem commandEffect_getElem? {k : Config} {i : Instr} {s : State} (records : i = .init → s.channels.length = k.C)
    (j : Nat) : (commandEffect k i s).channels[j]? = (s.channels[j]?).map (effectRecord k i j) := by
  have unchanged : s.channels[j]? = (s.channels[j]?).map id := Option.map_id.symm ▸ rfl
  cases i with
  | init =>
    rw [commandEffect, initEffect, allChannelsOff_channels, List.getElem?_replicate, ← records rfl]
    by_cases inRange : j < s.channels.length
    · rw [if_pos inRange, List.getElem?_eq_getElem inRange]; rfl
    · rw [if_neg inRange, List.getElem?_eq_none (Nat.not_lt.1 inRange)]; rfl
  | start c p t => exact getElem?_modify_eq_map s.channels c _ j
  | stop c | setOff c =>
    rw [commandEffect, switchOff, stopDriverIfIdle_channels]
    exact getElem?_modify_eq_map s.channels c _ j
  | tick =>
    rw [commandEffect, tickEffect_eq, tickFirst_getElem?]
    split
    case isTrue inRange =>
      have ticks : effectRecord k .tick j = tickRecord k := funext fun _ => if_pos inRange
      rw [ticks]
    case isFalse outOfRange =>
      have keeps : effectRecord k .tick j = id := funext fun _ => if_neg outOfRange
      rw [keeps, ← unchanged]
  | isRunning | setFull c | setPercent c pc => exact unchanged

/-- The records after a command, each from the one in its place. -/
theorem commandOn_channels {k : Config} {i : Instr} {s : State} (records : i = .init → s.channels.length = k.C) :
    (commandOn k i s).channels = s.channels.mapIdx (commandRecord k i) := by
  refine List.ext_getElem? fun j => ?_
  rw [commandOn_field State.channels (fun _ _ => rfl), List.getElem?_mapIdx]
  unfold commandRecord
  split
  · exact commandEffect_getElem? records j
  · exact Option.map_id.symm ▸ rfl

theorem commandOn_init_channels (k : Config) (s : State) :
    (commandOn k .init s).channels = List.replicate k.C Channel.zero :=
  allChannelsOff_channels _ _

/-- A command reads no field but the records to make the new ones. -/
theorem commandOn_channels_congr (k : Config) (i : Instr) {s s' : State} (same : s.channels = s'.channels) :
    (commandOn k i s).channels = (commandOn k i s').channels := by
  by_cases laysOut : i = .init
  · subst laysOut
    rw [commandOn_init_channels, commandOn_init_channels]
  · rw [commandOn_channels fun h => absurd h laysOut, commandOn_channels fun h => absurd h laysOut, same]

/-! `running` -/

/-- `running` after a command's effect that leaves some channel active or none (10_state.md R25). -/
def effectRunning (i : Instr) (running active : Bool) : Bool :=
  match i with
  | .init => false
  | .start _ _ _ => true
  | .stop _ | .setOff _ => running && active
  | .isRunning | .tick | .setFull _ | .setPercent _ _ => running

theorem commandEffect_running (k : Config) (i : Instr) (s : State) :
    (commandEffect k i s).running = effectRunning i s.running (anyActive (commandEffect k i s)) := by
  cases i with
  | init => exact allChannelsOff_running _ _
  | stop c | setOff c => exact switchOff_running c s
  | tick => exact tickEffect_running k s
  | start c p t | isRunning | setFull c | setPercent c pc => rfl

/-- `running` after a command word (R25). -/
theorem commandOn_running (k : Config) (i : Instr) (s : State) :
    (commandOn k i s).running =
      if commandCause k i = .done then effectRunning i s.running (anyActive (commandOn k i s)) else s.running := by
  have active := commandOn_field anyActive (fun _ _ => rfl) k i s
  rw [commandOn_field State.running (fun _ _ => rfl)]
  split
  case isTrue done => rw [active, if_pos done, commandEffect_running]
  case isFalse => rfl

/-- A command reads the records and `running` alone to make the new `running`. -/
theorem commandOn_running_congr (k : Config) (i : Instr) {s s' : State} (channels : s.channels = s'.channels)
    (running : s.running = s'.running) : (commandOn k i s).running = (commandOn k i s').running := by
  rw [commandOn_running, commandOn_running, running, anyActive_congr (commandOn_channels_congr k i channels)]

theorem effectRunning_changes {i : Instr} {running active : Bool} (changed : effectRunning i running active ≠ running) :
    (effectRunning i running active = true ∧ ∃ c p t, i = .start c p t) ∨
    (effectRunning i running active = false ∧
      (i = .init ∨ active = false ∧ ((∃ c, i = .stop c) ∨ ∃ c, i = .setOff c))) := by
  cases i with
  | init => exact .inr ⟨rfl, .inl rfl⟩
  | start c p t => exact .inl ⟨rfl, c, p, t, rfl⟩
  | stop c | setOff c => cases active <;> simp_all [effectRunning]
  | isRunning | tick | setFull c | setPercent c pc => exact absurd rfl changed

theorem anyActive_init (k : Config) (s : State) : anyActive (commandOn k .init s) = false := by
  simp [anyActive, commandOn_init_channels, Channel.zero]

/-- `running` changes only by a command that R25 names, which was performed. -/
theorem commandOn_running_changes {k : Config} {i : Instr} {s : State}
    (changed : (commandOn k i s).running ≠ s.running) :
    commandCause k i = .done ∧
      (((commandOn k i s).running = true ∧ ∃ c p t, i = .start c p t) ∨
       ((commandOn k i s).running = false ∧ anyActive (commandOn k i s) = false ∧
        (i = .init ∨ (∃ c, i = .stop c) ∨ ∃ c, i = .setOff c))) := by
  rw [commandOn_running] at changed ⊢
  split at changed
  case isFalse => exact absurd rfl changed
  case isTrue done =>
    rw [if_pos done]
    refine ⟨done, ?_⟩
    rcases effectRunning_changes changed with rises | ⟨falls, rfl | ⟨idle, off⟩⟩
    · exact .inl rises
    · exact .inr ⟨falls, anyActive_init k s, .inl rfl⟩
    · exact .inr ⟨falls, idle, .inr off⟩

/-! The statements over all commands -/

/-- The next state of `exec` is the command on the machine's configuration. -/
theorem eq_commandOn_of_exec {i : Instr} {s t : State} (next : exec i s = .next t) : t = commandOn Config.cfg i s :=
  (Host.Outcome.next.inj ((exec_eq i s).symm.trans next)).symm

/-- Settles O20: every command leaves the ports. -/
theorem pendingTickSurvivesCommands : Obligations.PendingTickSurvivesCommands := by
  intro i s t next
  rw [eq_commandOn_of_exec next]
  exact commandOn_samePorts _ i s

/-- Settles O19: a command that changes `running` is one that R25 names. -/
theorem runningChangesOnlyByItsCommands : Obligations.RunningChangesOnlyByItsCommands := by
  intro i s t next changed
  obtain rfl := eq_commandOn_of_exec next
  exact (commandOn_running_changes changed).2

/-- Settles O17: a record after a command comes from the one in its place, and the effect on it is by instruction. -/
theorem recordFieldsChangeOnlyByTheirCommands : Obligations.RecordFieldsChangeOnlyByTheirCommands := by
  intro i s t j a next notInit record
  obtain rfl := eq_commandOn_of_exec next
  refine ⟨commandRecord Config.cfg i j a, ?_, fun notStart => ?_⟩
  · rw [commandOn_channels fun h => absurd h notInit, List.getElem?_mapIdx, record]; rfl
  · unfold commandRecord
    split
    case isFalse => simp
    case isTrue =>
      cases i with
      | init => exact absurd rfl notInit
      | start c p t =>
        have other : j ≠ c := fun same => notStart p t (same ▸ rfl)
        simp [effectRecord, other]
      | stop c | setOff c =>
        by_cases own : j = c
        · subst own; simp [effectRecord]
        · simp [effectRecord, own]
      | tick =>
        by_cases ticks : j < Config.cfg.C ∧ a.active = true
        · simp [effectRecord, tickRecord, advanced, ticks]
        · have same : effectRecord Config.cfg .tick j a = a := by
            simp only [effectRecord, tickRecord]; grind
          simp [same]
      | isRunning | setFull c | setPercent c pc => simp [effectRecord]

/-- A command makes no write to a channel outside its entry of the sink column (R29). -/
theorem channel_ne_of_mem_commandWrites {k : Config} {i : Instr} {s : State} {a : Nat} {w : PwmWrite}
    (records : s.channels.length = k.C) (unwritten : mayWriteSink k s i a = false)
    (written : w ∈ commandWrites k i s.channels) : w.channel ≠ a := by
  unfold commandWrites at written
  split at written
  case isFalse => cases written
  case isTrue =>
    rintro rfl
    cases i with
    | init =>
      obtain ⟨c, inRange, rfl⟩ := List.mem_map.1 written
      exact of_decide_eq_false unwritten (List.mem_range.1 inRange)
    | start c p t | isRunning => cases written
    | stop c | setOff c | setFull c | setPercent c pc =>
      obtain rfl := List.mem_singleton.1 written
      simp [mayWriteSink] at unwritten
    | tick =>
      rw [effectWrites, ← records, List.take_length] at written
      obtain ⟨j, ch, record, active, rfl⟩ := mem_tickWritesFrom.1 written
      simp [mayWriteSink, record, active] at unwritten

/-- Settles O18: the sink takes the command's writes, none of which goes to the channel. -/
theorem sinkFrame : Obligations.SinkFrame := by
  intro i s t a records next unwritten
  obtain rfl := eq_commandOn_of_exec next
  have noWrite : writesTo a (commandWrites Config.cfg i s.channels) = [] :=
    List.filter_eq_nil_iff.2 fun w written => by
      simpa using channel_ne_of_mem_commandWrites records unwritten written
  rw [(commandOn_writes _ i s).read, lastDuty, noWrite]
  rfl

/-- The same command keeps two states alike that agree on what the block can read. -/
theorem commandOn_sameBlock {s s' : State} (same : SameBlock s s') (k : Config) (i : Instr) :
    SameBlock (commandOn k i s) (commandOn k i s') := by
  obtain ⟨channels, running, pending, rst, port, env⟩ := same
  have ports := commandOn_samePorts k i s
  have ports' := commandOn_samePorts k i s'
  refine ⟨commandOn_channels_congr k i channels, commandOn_running_congr k i channels running, ?_, ?_, ?_, ?_⟩
  · rw [ports.tickPending, ports'.tickPending, pending]
  · rw [ports.rst, ports'.rst, rst]
  · rw [ports.cmdPort, ports'.cmdPort, port]
  · rw [ports.env, ports'.env, env]

/-- Settles O50: writes, label, records and `running` after a command are functions of the records and `running` before. -/
theorem commandsReadNoObservation : Obligations.CommandsReadNoObservation := by
  intro i s s' same
  have alike := commandOn_sameBlock same Config.cfg i
  refine ⟨_, _, commandWrites Config.cfg i s.channels, (commandOn Config.cfg i s).running, exec_eq i s, exec_eq i s',
    alike, (commandOn_writes _ i s).trace, ?_, commandOn_responses _ i s, ?_, ?_⟩
  · rw [(commandOn_writes _ i s').trace, same.channels]
  · rw [commandOn_responses, alike.running]
  · rw [commandOn_outcome, commandOn_outcome]

/-- A START on what it leaves behind changes nothing before its response. -/
theorem startEffect_startEffect (c : Nat) (p : Int) (t : Nat) (cause : Cause) (s : State) :
    startEffect c p t (finish cause (startEffect c p t s)) = finish cause (startEffect c p t s) := by
  have again : (s.channels.modify c fun _ => startedChannel p t).modify c (fun _ => startedChannel p t) =
      s.channels.modify c fun _ => startedChannel p t := List.modify_modify_eq _ _ _ _
  simp [startEffect, setRunning, updateChannel, finish, again]

/-- Settles O22: the second START is stopped by the same cause, or finds its record and `running` in place. -/
theorem startTwiceIsStartOnce : Obligations.StartTwiceIsStartOnce := by
  intro c p tb s
  refine ⟨_, rfl, congrArg Host.Outcome.next ?_⟩
  rcases perform_cases (startCause Config.cfg c p tb) (startEffect c p tb) s with ⟨done, performed⟩ | ⟨stops, stopped⟩
  · rw [startOn, startOn, performed, done, perform_done, startEffect_startEffect]
    rfl
  · rw [startOn, startOn, stopped, perform_ignored stops]
    rfl

end Sys2Proof.Machine
end

section
/-! TICK over time and beside the direct writes (41_tick.md R126, R127, R129, 42_direct_pwm.md R144). -/

namespace Sys2Proof.Machine

/-! The writes of one TICK (R129) -/

/-- Every write of the walk is in I3's range, and none is 0. -/
theorem legal_of_mem_tickWritesFrom {k : Config} {chs : List Channel} {w : PwmWrite} (wf : k.WF)
    (breathing : ∀ ch ∈ chs, ch.active = true → Breathing k ch) (written : w ∈ tickWritesFrom k 0 chs) :
    1 ≤ w.duty ∧ w.duty ≤ k.DUTY_MAX ∧ w.channel < chs.length := by
  obtain ⟨j, ch, record, active, rfl⟩ := mem_tickWritesFrom.1 written
  obtain ⟨positive, small⟩ := tickDuty_mem wf (breathing ch (List.mem_of_getElem? record) active)
  refine ⟨positive, small, ?_⟩
  rw [Nat.zero_add]
  exact (List.getElem?_eq_some_iff.1 record).1

/-- Settles O26: the writes are those of the walk over records that meet I2. -/
theorem tickNeverWritesZero : Obligations.TickNeverWritesZero := by
  refine fun s inv => ⟨_, exec_eq .tick s, fun w written => ?_⟩
  have walk : w ∈ tickWritesFrom Config.cfg 0 s.channels := newWrites_tickOn inv.records ▸ written
  exact inv.records ▸ legal_of_mem_tickWritesFrom Config.cfg_wf inv.breathing walk

/-! A TICK with no active channel (R126) -/

theorem tickFirst_of_idle {s : State} (idle : anyActive s = false) (k : Config) (n : Nat) : tickFirst k n s = s := by
  induction n with
  | zero => rfl
  | succ n ih =>
    rw [tickFirst_succ, ih]
    rcases tickChannel_cases k s n with ⟨kept, -⟩ | ⟨ch, record, active, -⟩
    · exact kept
    · exact absurd active (by simpa using List.any_eq_false.1 idle ch (List.mem_of_getElem? record))

/-- Settles O27: by I1 no channel is active, so the loop passes every record over. -/
theorem tickWhileIdleDoesNothing : Obligations.TickWhileIdleDoesNothing := by
  intro s inv stopped
  have idle : tickEffect Config.cfg s = s := tickFirst_of_idle (inv.running_eq ▸ stopped) Config.cfg Config.cfg.C
  rw [exec_eq, commandOn, tickOn, idle, finish, stopped]

/-! A direct write and the next TICK (R144) -/

/-- The TICK after a write to a channel overwrites it when the channel is active and leaves it when not. -/
theorem read_tickOn_after_write {k : Config} {s : State} {c : Nat} {ch : Channel} (records : s.channels.length = k.C)
    (record : s.channels[c]? = some ch) (cause : Cause) (d : Nat) :
    (ch.active = true → (tickOn k (finish cause (pwmWrite c d s))).sink.read c = some (tickDuty k ch)) ∧
    (ch.active = false → (tickOn k (finish cause (pwmWrite c d s))).sink.read c = some d) := by
  have records' : (finish cause (pwmWrite c d s)).channels.length = k.C := records
  have record' : (finish cause (pwmWrite c d s)).channels[c]? = some ch := record
  refine ⟨read_tickOn_of_active records' record', fun inactive => ?_⟩
  have passedOver : ∀ ch', (finish cause (pwmWrite c d s)).channels[c]? = some ch' → ch'.active = false := by
    intro ch' same
    obtain rfl := Option.some.inj (record'.symm.trans same)
    exact inactive
  rw [read_tickOn_of_inactive records' passedOver, read_finish_pwmWrite, if_pos rfl]

/-- Settles O23: both commands are one write to a channel whose record they leave. -/
theorem directWriteHoldsOnlyWhileInactive : Obligations.DirectWriteHoldsOnlyWhileInactive := by
  intro s c ch records record
  have legal : c < Config.cfg.C := records ▸ (List.getElem?_eq_some_iff.1 record).1
  refine ⟨⟨_, _, congrArg Host.Outcome.next (setFullOn_of_legal legal s), exec_eq .tick _, ?_⟩, fun pc percent =>
    ⟨_, _, congrArg Host.Outcome.next (setPercentOn_of_legal legal percent s), exec_eq .tick _, ?_⟩⟩
  · exact read_tickOn_after_write records record .done _
  · exact read_tickOn_after_write records record .done _

/-! `n` TICKs (R127) -/

/-- The state after `n` TICK words. -/
def ticked (k : Config) (n : Nat) (s : State) : State := (tickOn k)^[n] s

theorem ticked_succ (k : Config) (n : Nat) (s : State) : ticked k (n + 1) s = tickOn k (ticked k n s) :=
  Function.iterate_succ_apply' _ n s

theorem tickTimes_eq (n : Nat) (s : State) : tickTimes n s = .next (ticked Config.cfg n s) := by
  induction n with
  | zero => rfl
  | succ n ih =>
    rw [tickTimes, ih, ticked_succ]
    exact exec_eq .tick _

theorem ticked_length {k : Config} {s : State} (records : s.channels.length = k.C) (n : Nat) :
    (ticked k n s).channels.length = k.C := by
  induction n with
  | zero => exact records
  | succ n ih => rw [ticked_succ, tickOn, finish_channels, tickEffect_channels ih, List.length_map, ih]

/-- The record of a channel at another phase. -/
def Channel.atPhase (ch : Channel) (phase : Nat) : Channel := { ch with phase := BitVec.ofNat 32 phase }

section
variable {k : Config} {ch : Channel} (wf : k.WF)
include wf

theorem atPhase_toNat {phase : Nat} (inCycle : phase < cycleLength k ch) : (ch.atPhase phase).phase.toNat = phase := by
  have short := cycleLength_le (ch := ch) wf
  exact Nat.mod_eq_of_lt (by omega)

variable (breathing : Breathing k ch)
include breathing

theorem atPhase_breathing {phase : Nat} (inCycle : phase < cycleLength k ch) : Breathing k (ch.atPhase phase) where
  period_pos := breathing.period_pos
  tbl_lt := breathing.tbl_lt
  phase_lt := (atPhase_toNat wf inCycle).symm ▸ inCycle

/-- One tick takes the phase `n mod M` to `(n + 1) mod M` (R122). -/
theorem nextPhase_atPhase (n : Nat) :
    nextPhase k (ch.atPhase (n % cycleLength k ch)) = (n + 1) % cycleLength k ch := by
  have inCycle : n % cycleLength k ch < cycleLength k ch := Nat.mod_lt _ (cycleLength_pos wf breathing)
  rw [nextPhase_eq wf (atPhase_breathing wf breathing inCycle), atPhase_toNat wf inCycle]
  exact Nat.mod_add_mod n _ 1

theorem advanced_atPhase (n : Nat) :
    advanced k (ch.atPhase (n % cycleLength k ch)) = ch.atPhase ((n + 1) % cycleLength k ch) := by
  rw [advanced, nextPhase_atPhase wf breathing]
  rfl

/-- The duty of a tick is a function of the phase it leaves. -/
theorem tickDuty_atPhase (n : Nat) :
    tickDuty k (ch.atPhase (n % cycleLength k ch)) = dutyAt k ch ((n + 1) % cycleLength k ch) := by
  rw [tickDuty, rawSample, nextPhase_atPhase wf breathing]
  rfl

section
variable {s : State} {c : Nat} (records : s.channels.length = k.C) (record : s.channels[c]? = some ch)
  (active : ch.active = true)
include records record active

/-- After `n` ticks an active channel's phase is `n` further on in its cycle. -/
theorem ticked_getElem? (n : Nat) :
    (ticked k n s).channels[c]? = some (ch.atPhase ((ch.phase.toNat + n) % cycleLength k ch)) := by
  induction n with
  | zero =>
    have inCycle : ch.phase.toNat < cycleLength k ch := breathing.phase_lt
    rw [Nat.add_zero, Nat.mod_eq_of_lt inCycle]
    exact record.trans (by simp [Channel.atPhase])
  | succ n ih =>
    rw [ticked_succ, tickOn_getElem?_of_active (ticked_length records n) ih active, advanced_atPhase wf breathing]
    rfl

/-- After at least one tick the sink holds the duty of the phase. -/
theorem read_ticked {n : Nat} (positive : 1 ≤ n) :
    (ticked k n s).sink.read c = some (dutyAt k ch ((ch.phase.toNat + n) % cycleLength k ch)) := by
  obtain ⟨m, rfl⟩ := Nat.exists_eq_add_of_le' positive
  have before := ticked_getElem? wf breathing records record active m
  rw [ticked_succ, read_tickOn_of_active (ticked_length records m) before active, tickDuty_atPhase wf breathing]
  rfl

end

end

/-- Settles O29: phase and duty after `n` ticks depend on `(phase + n) mod M` alone, and `M` more ticks leave it. -/
theorem breathingIsPeriodic : Obligations.BreathingIsPeriodic := by
  intro s c ch n M inv record active cycle
  have wf := Config.cfg_wf
  have breathing := inv.breathing ch (List.mem_of_getElem? record) active
  have records := ticked_getElem? wf breathing inv.records record active
  have duties {m : Nat} (positive : 1 ≤ m) := read_ticked wf breathing inv.records record active positive
  have samePhase : (ch.phase.toNat + (n + M)) % M = (ch.phase.toNat + n) % M := by
    rw [← Nat.add_assoc, Nat.add_mod_right]
  obtain rfl : M = cycleLength Config.cfg ch := cycle
  refine ⟨_, _, tickTimes_eq n s, tickTimes_eq _ s, records n, ?_, fun positive => ⟨duties positive, ?_⟩⟩
  · rw [records, records, samePhase]
  · rw [duties positive, duties (Nat.le_add_right_of_le positive), samePhase]

end Sys2Proof.Machine
end

section
/-! One step by the environment's next move (15_interfaces.md R42 to R52, 70_reset_and_hazards.md R200): every step gives a
next state, and the statements about the ports, the configuration and reset. -/

namespace Sys2Proof.Machine

/-! The step, move by move -/

/-- A pulse is latched. -/
theorem step_of_pulse {s : State} {rest : List Stimulus} (low : s.rst = false) (h : s.env = .pulse :: rest) :
    step s = .next (latchTick { s with env := rest }) := by
  rw [step_of_rst_low low, stepOutOfReset, h]

/-- A word is put on an empty port. -/
theorem step_of_present_empty {s : State} {w : Word} {rest : List Stimulus} (low : s.rst = false)
    (h : s.env = .present w :: rest) (empty : s.cmdPort = none) :
    step s = .next { s with cmdPort := some w, env := rest } := by
  rw [step_of_rst_low low, stepOutOfReset, h]
  simp only [presentWord, empty]

/-- While a word waits, the block goes on with what waits (R42). -/
theorem step_of_present_waiting {s : State} {w v : Word} {rest : List Stimulus} (low : s.rst = false)
    (h : s.env = .present w :: rest) (waits : s.cmdPort = some v) : step s = arbitrate exec Config.cfg s := by
  rw [step_of_rst_low low, stepOutOfReset, h]
  simp only [presentWord, waits]

/-- The level falls in a step of its own (log 19). -/
theorem step_of_rst_falls {s : State} (high : s.rst = true) (h : ∀ rest, s.env ≠ .reset :: rest) :
    step s = .next { s with rst := false } := by
  rw [step_of_rst_high high]
  rcases holdReset_cases Config.cfg s with ⟨rest, held, -⟩ | ⟨-, falls⟩
  · exact absurd held (h rest)
  · rw [falls]

/-! Every step completes (R6, R172) -/

section
variable {run : Executor} (total : ∀ i s, ∃ t, run i s = .next t) (k : Config)
include total

theorem arbitrate_completes (s : State) : ∃ t, arbitrate run k s = .next t := by
  unfold arbitrate performWord
  split
  · exact ⟨_, rfl⟩
  · split
    · split
      · exact total _ _
      · exact ⟨_, rfl⟩
    · exact ⟨_, rfl⟩

theorem stepOutOfReset_completes (s : State) : ∃ t, stepOutOfReset run k s = .next t := by
  unfold stepOutOfReset
  split
  case h_1 | h_2 => exact arbitrate_completes total k _
  case h_3 | h_5 => exact ⟨_, rfl⟩
  case h_4 =>
    unfold presentWord
    split
    · exact ⟨_, rfl⟩
    · exact arbitrate_completes total k _
  case h_6 n rest _ =>
    obtain ⟨u, event⟩ := arbitrate_completes total k { s with env := rest }
    exact ⟨_, congrArg (abandonEvent k n s) event⟩

theorem stepWith_completes (s : State) : ∃ t, stepWith run k s = .next t := by
  unfold stepWith
  split
  · exact ⟨_, rfl⟩
  · exact stepOutOfReset_completes total k s

end

/-- Settles O45: every command answers a next state, and so does every other event. -/
theorem everyStepCompletes : Obligations.EveryStepCompletes :=
  stepWith_completes (fun i s => ⟨_, exec_eq i s⟩) Config.cfg

/-- Settles O44: the check of the record comes first, and `exec` is the command on the machine's record. -/
theorem malformedConfigurationIsRefused : Obligations.MalformedConfigurationIsRefused := by
  refine ⟨fun k s malformed => if_neg malformed, fun k s wf => ?_, fun s => ?_⟩
  · rw [stepOn, if_pos wf]
    exact stepWith_completes (fun i s => ⟨_, rfl⟩) k s
  · rw [stepOn, if_pos Config.cfg_wf, step, exec_eq_fun]

/-! One event of the arbiter, case by case (R42, R47, R183) -/

section
variable {s : State}

theorem arbitrate_of_pending (pending : s.tickPending = true) :
    arbitrate exec Config.cfg s = .next (tickPinOn Config.cfg { s with tickPending := false }) :=
  if_pos pending

section
variable (noTick : s.tickPending = false)
include noTick

theorem arbitrate_of_waitingWord {w : Word} (waiting : s.cmdPort = some w) :
    arbitrate exec Config.cfg s = performWord exec w s := by
  rw [arbitrate, if_neg (by simp [noTick])]
  simp only [waiting]

theorem arbitrate_of_instr {w : Word} {i : Instr} (waiting : s.cmdPort = some w) (decoded : decode w = .instr i) :
    arbitrate exec Config.cfg s = .next (commandOn Config.cfg i { s with cmdPort := none }) := by
  rw [arbitrate_of_waitingWord noTick waiting, performWord_of_instr decoded, exec_eq]

theorem arbitrate_of_reserved {w : Word} {r : Reserved} (waiting : s.cmdPort = some w)
    (reserved : decode w = .reserved r) :
    arbitrate exec Config.cfg s = .next (ignored .ignReserved { s with cmdPort := none }) := by
  rw [arbitrate_of_waitingWord noTick waiting, performWord_of_reserved reserved]

theorem arbitrate_of_nothing (empty : s.cmdPort = none) : arbitrate exec Config.cfg s = .next s := by
  rw [arbitrate, if_neg (by simp [noTick])]
  simp only [empty]

end

/-- All that one event of the machine's arbiter can do. -/
theorem arbitrate_exec_cases {t : State} (event : arbitrate exec Config.cfg s = .next t) :
    (s.tickPending = true ∧ t = tickPinOn Config.cfg { s with tickPending := false }) ∨
    (s.tickPending = false ∧ ∃ w i, s.cmdPort = some w ∧ decode w = .instr i ∧
      t = commandOn Config.cfg i { s with cmdPort := none }) ∨
    (s.tickPending = false ∧ ∃ w r, s.cmdPort = some w ∧ decode w = .reserved r ∧
      t = ignored .ignReserved { s with cmdPort := none }) ∨
    (s.tickPending = false ∧ s.cmdPort = none ∧ t = s) := by
  obtain ⟨u, event', cases⟩ := arbitrate_cases Config.cfg s
  rw [← exec_eq_fun, event] at event'
  exact Host.Outcome.next.inj event' ▸ cases

end

/-! One event does not see the moves to come (log 3) -/

/-- States are equal when their fields are. -/
theorem State.eq_of_fields {s t : State} (channels : s.channels = t.channels) (running : s.running = t.running)
    (sink : s.sink = t.sink) (trace : s.trace = t.trace) (responses : s.responses = t.responses)
    (outcome : s.outcome = t.outcome) (ports : SamePorts s t) : s = t := by
  obtain ⟨pending, rst, port, env, before⟩ := ports
  cases s; cases t
  simp_all

/-- A command does not see the moves to come. -/
theorem commandOn_env (k : Config) (i : Instr) (s : State) (moves : List Stimulus) :
    commandOn k i { s with env := moves } = { commandOn k i s with env := moves } := by
  have writes := commandOn_writes k i s
  have writes' := commandOn_writes k i { s with env := moves }
  have running := commandOn_running_congr k i (s := { s with env := moves }) (s' := s) rfl rfl
  obtain ⟨pending, rst, port, -, before⟩ := commandOn_samePorts k i s
  obtain ⟨pending', rst', port', env', before'⟩ := commandOn_samePorts k i { s with env := moves }
  refine State.eq_of_fields (commandOn_channels_congr k i rfl) running (writes'.sink.trans writes.sink.symm)
    (writes'.trace.trans writes.trace.symm) ?_ ?_
    ⟨pending.trans pending'.symm, rst.trans rst'.symm, port.trans port'.symm, env'.symm, before.trans before'.symm⟩
  · rw [commandOn_responses, running]
    exact (commandOn_responses k i s).symm
  · rw [commandOn_outcome]
    exact (commandOn_outcome k i s).symm

theorem tickPinOn_env (k : Config) (s : State) (moves : List Stimulus) :
    tickPinOn k { s with env := moves } = { tickPinOn k s with env := moves } := by
  rw [tickPinOn_eq_tickOn, tickPinOn_eq_tickOn]
  exact congrArg (fun u : State => { u with responses := s.responses }) (commandOn_env k .tick s moves)

theorem arbitrate_env {s t : State} (event : arbitrate exec Config.cfg s = .next t) (moves : List Stimulus) :
    arbitrate exec Config.cfg { s with env := moves } = .next { t with env := moves } := by
  rcases arbitrate_exec_cases event with ⟨pending, rfl⟩ | ⟨noTick, w, i, waiting, decoded, rfl⟩ |
    ⟨noTick, w, r, waiting, reserved, rfl⟩ | ⟨noTick, empty, rfl⟩
  · refine (arbitrate_of_pending (s := { s with env := moves }) pending).trans (congrArg Host.Outcome.next ?_)
    exact tickPinOn_env _ { s with tickPending := false } moves
  · refine (arbitrate_of_instr (s := { s with env := moves }) noTick waiting decoded).trans
      (congrArg Host.Outcome.next ?_)
    exact commandOn_env _ i { s with cmdPort := none } moves
  · exact arbitrate_of_reserved (s := { s with env := moves }) noTick waiting reserved
  · exact arbitrate_of_nothing (s := { t with env := moves }) noTick empty

/-- One event leaves the moves to come. -/
theorem eq_with_env_of_arbitrate {s t : State} (event : arbitrate exec Config.cfg s = .next t) :
    t = { t with env := s.env } :=
  Host.Outcome.next.inj (event.symm.trans (arbitrate_env event s.env))

/-! The statements about the ports -/

/-- Settles O37: both forms of a free cycle lead to the arbiter, which decodes the waiting word. -/
theorem stepRunsTheDecodedCommand : Obligations.StepRunsTheDecodedCommand := by
  intro s w i rest low noTick waiting decoded
  refine ⟨fun none_left => ?_, fun free => ?_⟩
  · rw [step_of_waitingWord ⟨low, .inl none_left⟩ noTick waiting, performWord_of_instr decoded, none_left]
    rfl
  · rw [step_of_waitingWord ⟨low, .inr ⟨rest, free⟩⟩ noTick waiting, performWord_of_instr decoded, free]
    rfl

/-- Settles O39: the latch is one bit, so a second pulse finds it set. -/
theorem tickPulsesMerge : Obligations.TickPulsesMerge := by
  intro s rest low pulse
  exact ⟨_, step_of_pulse low pulse, rfl, fun rest' again =>
    step_of_pulse (s := latchTick { s with env := rest }) low again⟩

/-- Settles O40: the port takes a word when it is empty; else the event is the one that does not see the move. -/
theorem hostWordIsHeld : Obligations.HostWordIsHeld := by
  intro s w rest low presents
  refine ⟨step_of_present_empty low presents, fun v waits => ?_⟩
  obtain ⟨t, event, -, -⟩ := arbitrate_appends s
  have withoutMove : step { s with env := [] } = .next { t with env := [] } :=
    (step_of_freeCycle (s := { s with env := [] }) ⟨low, .inl rfl⟩).trans (arbitrate_env event [])
  exact ⟨t, _, (step_of_present_waiting low presents waits).trans event, withoutMove, eq_with_env_of_arbitrate event⟩

/-- In a free cycle with no tick pending and no word nothing happens (R183). -/
theorem step_of_nothing {s : State} (free : FreeCycle s) (noTick : s.tickPending = false) (empty : s.cmdPort = none) :
    step s = .next { s with env := s.env.tail } := by
  rw [step_of_freeCycle free]
  exact arbitrate_of_nothing noTick empty

/-- Settles O41: the arbiter finds neither a tick nor a word. -/
theorem idleBlockWaits : Obligations.IdleBlockWaits := by
  intro s low noTick empty
  refine ⟨fun none_left => ?_, fun rest free => ?_⟩
  · rw [step_of_nothing ⟨low, .inl none_left⟩ noTick empty, none_left]
    exact congrArg (fun moves => Host.Outcome.next { s with env := moves }) none_left.symm
  · rw [step_of_nothing ⟨low, .inr ⟨rest, free⟩⟩ noTick empty, free]
    rfl

/-! The statements about reset -/

/-- Settles O42: a cycle of reset is `resetBlock`, from every state and at either level. -/
theorem resetLeavesResetState : Obligations.ResetLeavesResetState := by
  refine ⟨⟨rfl, rfl, rfl, fun _ => rfl, rfl, rfl⟩, fun s rest reset => ?_⟩
  exact ⟨_, step_of_reset reset, resetBlock_isReset _ _ _, rfl⟩

theorem cmdReady_of_rst {s : State} (high : s.rst = true) : cmdReady s = false := by
  rw [cmdReady, high]; rfl

/-- Settles O52: `resetBlock` leaves the level 1 and `running` 0; when the level falls, the invariant says what was held. -/
theorem resetHoldsTheBlock : Obligations.ResetHoldsTheBlock := by
  refine ⟨fun s => cmdReady_of_rst, fun s rest reset => ?_, fun s n rest low rises => ?_, fun s inv high noReset => ?_⟩
  · exact ⟨_, step_of_reset reset, rfl, cmdReady_of_rst rfl, rfl, resetBlock_isReset _ _ _, rfl, rfl⟩
  · obtain ⟨u, event, -, -⟩ := arbitrate_appends { s with env := rest }
    exact ⟨_, (step_of_resetDuring low rises).trans (congrArg (abandonEvent Config.cfg n s) event), rfl,
      cmdReady_of_rst rfl, rfl⟩
  · obtain ⟨records, running, pending, sink, trace, responses⟩ := inv.held high
    refine ⟨_, step_of_rst_falls high noReset, rfl, ⟨records, running, pending, sink, trace, responses⟩, ?_⟩
    rw [cmdReady, pending]; rfl

end Sys2Proof.Machine
end

section
/-! The invariants I1 to I4 (10_state.md R26) under every command and every move of the environment, and the edges of
`drv_run_o` (15_interfaces.md R48) that rest on I1. -/

namespace Sys2Proof.Machine

/-! All that a step can do -/

/-- A step is a cycle of reset, the fall of `rst_i`, a move of the environment at the ports, an event of the arbiter, or an
event that a reset abandons. -/
theorem step_cases {s t : State} (next : step s = .next t) :
    (∃ moves, t = resetBlock Config.cfg s.trace { s with env := moves }) ∨
    (s.rst = true ∧ t = { s with rst := false }) ∨
    (s.rst = false ∧ ∃ pending port moves, t = { s with tickPending := pending, cmdPort := port, env := moves }) ∨
    (s.rst = false ∧ ∃ moves, arbitrate exec Config.cfg { s with env := moves } = .next t) ∨
    (s.rst = false ∧ ∃ n moves u, arbitrate exec Config.cfg { s with env := moves } = .next u ∧
      t = resetBlock Config.cfg (u.trace.take (s.trace.length + n)) u) := by
  by_cases reset : ∃ rest, s.env = .reset :: rest
  · obtain ⟨rest, reset⟩ := reset
    exact .inl ⟨rest, Host.Outcome.next.inj (next.symm.trans (step_of_reset reset))⟩
  by_cases level : s.rst = true
  · have falls := step_of_rst_falls level (not_exists.1 reset)
    exact .inr (.inl ⟨level, Host.Outcome.next.inj (next.symm.trans falls)⟩)
  have low : s.rst = false := Bool.eq_false_iff.2 level
  refine .inr (.inr ?_)
  match moves : s.env with
  | [] => exact .inr (.inl ⟨low, _, (step_of_freeCycle ⟨low, .inl moves⟩).symm.trans next⟩)
  | .free :: rest => exact .inr (.inl ⟨low, _, (step_of_freeCycle ⟨low, .inr ⟨rest, moves⟩⟩).symm.trans next⟩)
  | .pulse :: rest =>
    exact .inl ⟨low, true, s.cmdPort, rest, Host.Outcome.next.inj (next.symm.trans (step_of_pulse low moves))⟩
  | .present w :: rest =>
    rcases Option.eq_none_or_eq_some s.cmdPort with empty | ⟨v, waits⟩
    · have taken := step_of_present_empty low moves empty
      exact .inl ⟨low, s.tickPending, some w, rest, Host.Outcome.next.inj (next.symm.trans taken)⟩
    · exact .inr (.inl ⟨low, s.env, (step_of_present_waiting low moves waits).symm.trans next⟩)
  | .reset :: rest => exact absurd ⟨rest, moves⟩ reset
  | .resetDuring n :: rest =>
    obtain ⟨u, event, -, -⟩ := arbitrate_appends { s with env := rest }
    have abandoned := (step_of_resetDuring low moves).trans (congrArg (abandonEvent Config.cfg n s) event)
    exact .inr (.inr ⟨low, n, rest, u, event, Host.Outcome.next.inj (next.symm.trans abandoned)⟩)

/-! I2 and I4, record by record -/

/-- I2 and I4 for one record. -/
structure Sound (k : Config) (ch : Channel) : Prop where
  breathing : ch.active = true → Breathing k ch
  stored : Stored k ch

/-- I4 follows from I2. -/
theorem Sound.of_breathing {k : Config} {ch : Channel} (h : Breathing k ch) : Sound k ch where
  breathing := fun _ => h
  stored := ⟨by have := h.period_pos; omega, h.tbl_lt⟩

section
variable {k : Config} (wf : k.WF)
include wf

theorem zero_sound : Sound k Channel.zero where
  breathing := fun active => by cases active
  stored := ⟨by decide, wf.tables_pos⟩

/-- The record that a legal START writes, its period within the field. -/
theorem startedChannel_breathing {p : Int} {t : Nat} (positive : 0 < p) (fits : PeriodFits p) (legal : t < k.T) :
    Breathing k (startedChannel p t) where
  period_pos := by rw [startedChannel_period fits]; omega
  tbl_lt := by rwa [startedChannel_tbl p (Nat.lt_of_lt_of_le legal wf.tables_le)]
  phase_lt := by
    rw [startedChannel_period fits]
    exact Nat.mul_pos (by omega) wf.base_pos

theorem tickRecord_sound {ch : Channel} (sound : Sound k ch) : Sound k (tickRecord k ch) := by
  unfold tickRecord
  split
  case isTrue active => exact Sound.of_breathing (advanced_breathing wf (sound.breathing active))
  case isFalse => exact sound

/-- Every command keeps I2 and I4 of every record. -/
theorem commandRecord_sound {i : Instr} {j : Nat} {ch : Channel} (fits : i.wf = true) (sound : Sound k ch) :
    Sound k (commandRecord k i j ch) := by
  unfold commandRecord
  split
  case isFalse => exact sound
  case isTrue done =>
    cases i with
    | init => exact zero_sound wf
    | start c p t =>
      simp only [Instr.wf, Bool.and_eq_true, decide_eq_true_eq] at fits
      obtain ⟨⟨-, period⟩, -⟩ := fits
      obtain ⟨-, positive, legal⟩ := startCause_done done
      simp only [effectRecord]
      split
      · exact Sound.of_breathing (startedChannel_breathing wf positive period legal)
      · exact sound
    | stop c | setOff c =>
      simp only [effectRecord]
      split
      · exact ⟨fun active => (by cases active), sound.stored.period_nonneg, sound.stored.tbl_lt⟩
      · exact sound
    | tick =>
      simp only [effectRecord]
      split
      · exact tickRecord_sound wf sound
      · exact sound
    | isRunning | setFull c | setPercent c pc => exact sound

/-! I3, write by write -/

/-- Every write of a command is legal when the records meet I2. -/
theorem legal_of_mem_commandWrites {i : Instr} {chs : List Channel} {w : PwmWrite} (records : chs.length = k.C)
    (breathing : ∀ ch ∈ chs, ch.active = true → Breathing k ch) (written : w ∈ commandWrites k i chs) :
    LegalWrite k w := by
  unfold commandWrites at written
  split at written
  case isFalse => cases written
  case isTrue done =>
    cases i with
    | init =>
      obtain ⟨c, inRange, rfl⟩ := List.mem_map.1 written
      exact ⟨List.mem_range.1 inRange, Nat.zero_le _⟩
    | start c p t | isRunning => cases written
    | stop c | setOff c =>
      obtain rfl := List.mem_singleton.1 written
      exact ⟨channelCause_done done, Nat.zero_le _⟩
    | tick =>
      rw [effectWrites, ← records, List.take_length] at written
      obtain ⟨-, small, inRange⟩ := legal_of_mem_tickWritesFrom wf breathing written
      exact ⟨records ▸ inRange, small⟩
    | setFull c =>
      obtain rfl := List.mem_singleton.1 written
      exact ⟨channelCause_done done, Nat.le_refl _⟩
    | setPercent c pc =>
      obtain rfl := List.mem_singleton.1 written
      obtain ⟨legal, percent⟩ := percentCause_done done
      exact ⟨legal, percentToDuty_le k percent⟩

end

/-! I1 -/

theorem anyActive_iff (s : State) :
    anyActive s = true ↔ ∃ (j : Nat) (ch : Channel), s.channels[j]? = some ch ∧ ch.active = true := by
  rw [anyActive, List.any_eq_true]
  constructor
  · rintro ⟨ch, member, active⟩
    obtain ⟨j, record⟩ := List.mem_iff_getElem?.1 member
    exact ⟨j, ch, record, active⟩
  · rintro ⟨j, ch, record, active⟩
    exact ⟨ch, List.mem_of_getElem? record, active⟩

section
variable {k : Config} {s : State} (records : s.channels.length = k.C)
include records

theorem anyActive_tick : anyActive (commandOn k .tick s) = anyActive s := by
  have flags : (fun ch => ch.active) ∘ tickRecord k = fun ch => ch.active := by
    funext ch
    simp only [Function.comp, tickRecord]
    split <;> rfl
  rw [anyActive, commandOn, tickOn, finish_channels, tickEffect_channels records, List.any_map, flags]
  rfl

/-- A START that is performed leaves its channel active. -/
theorem anyActive_start {c t : Nat} {p : Int} (done : startCause k c p t = .done) :
    anyActive (commandOn k (.start c p t) s) = true := by
  obtain ⟨legal, positive, table⟩ := startCause_done done
  refine (anyActive_iff _).2 ⟨c, startedChannel p t, ?_, rfl⟩
  rw [commandOn, startOn_of_legal legal positive table]
  exact startEffect_getElem?_same (records ▸ legal) p t

omit records in
/-- Switching a channel off makes no other active. -/
theorem anyActive_of_switchOff {c : Nat} (h : anyActive (switchOff c s) = true) : anyActive s = true := by
  obtain ⟨j, ch, record, active⟩ := (anyActive_iff _).1 h
  rw [switchOff_getElem?] at record
  split at record
  · obtain ⟨_, -, rfl⟩ := Option.map_eq_some_iff.1 record
    cases active
  · exact (anyActive_iff _).2 ⟨j, ch, record, active⟩

/-- Every command keeps I1. -/
theorem commandOn_running_eq (i : Instr) (running_eq : s.running = anyActive s) :
    (commandOn k i s).running = anyActive (commandOn k i s) := by
  have active := commandOn_field anyActive (fun _ _ => rfl) k i s
  rw [commandOn_running]
  split
  case isFalse stops => rw [active, if_neg stops, running_eq]
  case isTrue done =>
    rw [if_pos done] at active
    cases i with
    | init => exact (anyActive_init k s).symm
    | start c p t => exact (anyActive_start records done).symm
    | stop c | setOff c =>
      have falls : anyActive (commandOn k _ s) = true → anyActive s = true := fun h =>
        anyActive_of_switchOff (active ▸ h)
      rw [effectRunning, running_eq, Bool.and_eq_right_iff_imp]
      exact falls
    | tick => exact running_eq.trans (anyActive_tick records).symm
    | isRunning | setFull c | setPercent c pc => exact running_eq.trans active.symm

end

/-! The invariant under commands and moves -/

theorem Inv.sound {k : Config} {s : State} (inv : Inv k s) {ch : Channel} (member : ch ∈ s.channels) : Sound k ch :=
  ⟨inv.breathing ch member, inv.stored ch member⟩

section
variable {k : Config} {s t : State} (inv : Inv k s)
include inv

/-- A state that differs only in what the invariant does not speak of, `rst_i` being 0. -/
theorem Inv.of_same (channels : t.channels = s.channels) (running : t.running = s.running) (sink : t.sink = s.sink)
    (trace : t.trace = s.trace) (before : t.beforeReset = s.beforeReset) (low : t.rst = false) : Inv k t where
  records := channels ▸ inv.records
  running_eq := running.trans (inv.running_eq.trans (anyActive_congr channels.symm))
  breathing := channels ▸ inv.breathing
  stored := channels ▸ inv.stored
  legal := trace ▸ inv.legal
  legalBefore := before ▸ inv.legalBefore
  sink_eq := by rw [sink, trace]; exact inv.sink_eq
  held := fun high => by rw [low] at high; cases high

/-- A command word keeps the invariant. -/
theorem Inv.of_commandOn (wf : k.WF) {i : Instr} (fits : i.wf = true) (low : s.rst = false) : Inv k (commandOn k i s) := by
  have channels := commandOn_channels (k := k) (i := i) (s := s) fun _ => inv.records
  have writes := commandOn_writes k i s
  have ports := commandOn_samePorts k i s
  have sound : ∀ ch ∈ (commandOn k i s).channels, Sound k ch := by
    rw [channels]
    intro ch member
    obtain ⟨j, inRange, rfl⟩ := List.mem_mapIdx.1 member
    exact commandRecord_sound wf fits (inv.sound (List.getElem_mem inRange))
  refine ⟨?_, commandOn_running_eq inv.records i inv.running_eq, fun ch member => (sound ch member).breathing,
    fun ch member => (sound ch member).stored, ?_, ?_, ?_, ?_⟩
  · rw [channels, List.length_mapIdx, inv.records]
  · rw [writes.trace]
    intro w written
    rcases List.mem_append.1 written with old | new
    · exact inv.legal w old
    · exact legal_of_mem_commandWrites wf inv.records inv.breathing new
  · exact ports.beforeReset ▸ inv.legalBefore
  · rw [writes.sink, writes.trace, inv.sink_eq, sinkAfter, sinkAfter, List.foldl_append]
  · intro high
    rw [ports.rst, low] at high
    cases high

end

/-- The state that a reset leaves meets the invariant (R31). -/
theorem inv_of_blockIsReset {k : Config} {s : State} (wf : k.WF) (reset : BlockIsReset k s) (sink : s.sink = [])
    (before : ∀ w ∈ s.beforeReset, LegalWrite k w) : Inv k s := by
  have zeros : ∀ ch ∈ s.channels, ch = Channel.zero := fun ch member =>
    List.eq_of_mem_replicate (reset.records ▸ member)
  have sound : ∀ ch ∈ s.channels, Sound k ch := fun ch member => zeros ch member ▸ zero_sound wf
  refine ⟨?_, ?_, fun ch member => (sound ch member).breathing, fun ch member => (sound ch member).stored, ?_, before,
    ?_, fun _ => reset⟩
  · rw [reset.records, List.length_replicate]
  · have idle : anyActive s = false := List.any_eq_false.2 fun ch member => by
      rw [zeros ch member]; decide
    rw [reset.running, idle]
  · rw [reset.trace]
    exact fun _ written => by cases written
  · rw [sink, reset.trace]; rfl

theorem inv_resetBlock {k : Config} {s : State} {received : List PwmWrite} (wf : k.WF)
    (before : ∀ w ∈ s.beforeReset, LegalWrite k w) (legal : ∀ w ∈ received, LegalWrite k w) :
    Inv k (resetBlock k received s) := by
  refine inv_of_blockIsReset wf (resetBlock_isReset k received s) rfl fun w written => ?_
  rcases List.mem_append.1 written with old | new
  · exact before w old
  · exact legal w new

/-- One event of the arbiter keeps the invariant. -/
theorem Inv.of_arbitrate {s t : State} (inv : Inv Config.cfg s) (low : s.rst = false)
    (event : arbitrate exec Config.cfg s = .next t) : Inv Config.cfg t := by
  have wf := Config.cfg_wf
  rcases arbitrate_exec_cases event with ⟨-, rfl⟩ | ⟨-, w, i, -, decoded, rfl⟩ | ⟨-, w, r, -, -, rfl⟩ | ⟨-, -, rfl⟩
  · have latchCleared : Inv Config.cfg { s with tickPending := false } := inv.of_same rfl rfl rfl rfl rfl low
    have ticked := latchCleared.of_commandOn wf (i := .tick) rfl low
    rw [tickPinOn_eq_tickOn]
    exact ticked.of_same rfl rfl rfl rfl rfl ((commandOn_samePorts _ .tick _).rst.trans low)
  · have accepted : Inv Config.cfg { s with cmdPort := none } := inv.of_same rfl rfl rfl rfl rfl low
    exact accepted.of_commandOn wf (wf_of_decode decoded) low
  · exact inv.of_same rfl rfl rfl rfl rfl low
  · exact inv

/-! The statements -/

/-- Settles O46: reset leaves zero records and an empty trace. -/
theorem invariantsHoldAtReset : Obligations.InvariantsHoldAtReset :=
  inv_of_blockIsReset Config.cfg_wf resetLeavesResetState.1 rfl fun _ written => by cases written

/-- Settles O47: a reset establishes the invariant, the moves at the ports leave what it speaks of, and every event keeps
it. -/
theorem invariantsKeptByEveryStep : Obligations.InvariantsKeptByEveryStep := by
  intro s t inv next
  have wf := Config.cfg_wf
  have moved (low : s.rst = false) (moves : List Stimulus) : Inv Config.cfg { s with env := moves } :=
    inv.of_same rfl rfl rfl rfl rfl low
  rcases step_cases next with ⟨moves, rfl⟩ | ⟨-, rfl⟩ | ⟨low, pending, port, moves, rfl⟩ | ⟨low, moves, event⟩ |
    ⟨low, n, moves, u, event, rfl⟩
  · exact inv_resetBlock wf inv.legalBefore inv.legal
  · exact inv.of_same rfl rfl rfl rfl rfl rfl
  · exact inv.of_same rfl rfl rfl rfl rfl low
  · exact (moved low moves).of_arbitrate low event
  · have inv' := (moved low moves).of_arbitrate low event
    exact inv_resetBlock wf inv'.legalBefore fun w kept => inv'.legal w (List.mem_of_mem_take kept)

/-- Settles O48: the sink is what the trace wrote, and the last write to a channel stays. -/
theorem sinkHoldsTheLastWrite : Obligations.SinkHoldsTheLastWrite := by
  intro s c inv
  rw [inv.sink_eq, sinkAfter, read_writes, Memory.read_nil, Option.or_none]

/-! The edges of `drv_run_o` -/

theorem driverCall_eq_schedule_iff {s t : State} :
    driverCall s t = some .schedulePeriodic ↔ s.running = false ∧ t.running = true := by
  unfold driverCall drvRun
  cases s.running <;> cases t.running <;> simp

theorem driverCall_eq_cancel_iff {s t : State} :
    driverCall s t = some .cancelPeriodic ↔ s.running = true ∧ t.running = false := by
  unfold driverCall drvRun
  cases s.running <;> cases t.running <;> simp

/-- Settles O21: only a START that is performed raises `running`, and by I1 it is 0 exactly when no channel is active. -/
theorem driverEdgesFollowTheCommands : Obligations.DriverEdgesFollowTheCommands := by
  intro i s t inv next
  obtain rfl := eq_commandOn_of_exec next
  rw [driverCall_eq_schedule_iff, driverCall_eq_cancel_iff, commandOn_outcome,
    ← commandOn_running_eq inv.records i inv.running_eq]
  refine ⟨⟨fun ⟨before, after⟩ => ?_, fun ⟨start, before, done⟩ => ⟨before, ?_⟩⟩, Iff.rfl⟩
  · obtain ⟨done, ⟨-, start⟩ | ⟨falls, -, -⟩⟩ := commandOn_running_changes (by rw [before, after]; decide)
    · exact ⟨start, before, done⟩
    · rw [falls] at after; cases after
  · obtain ⟨c, p, tb, rfl⟩ := start
    rw [commandOn_running, if_pos done, effectRunning]

end Sys2Proof.Machine
end

section
/-! What one event gives the sink and the host, and that no step reads an observation (10_state.md R27, 60_exceptions.md
R173): two states that agree on what the block can read have the same event, the same writes and the same responses. Last,
the canonical form of the sink. -/

namespace Sys2Proof.Machine

/-! What an event gives -/

/-- From `s` to `t`, with no reset between them, the sink is given the writes `ws` and the host the responses `bs`. -/
structure EventGives (s t : State) (ws : List PwmWrite) (bs : List Bool) : Prop where
  writes : Writes s t ws
  responses : t.responses = s.responses ++ bs
  beforeReset : t.beforeReset = s.beforeReset

theorem EventGives.nothing {s t : State} (sink : t.sink = s.sink) (trace : t.trace = s.trace)
    (responses : t.responses = s.responses) (before : t.beforeReset = s.beforeReset) : EventGives s t [] [] :=
  ⟨⟨trace.trans (List.append_nil _).symm, sink⟩, responses.trans (List.append_nil _).symm, before⟩

/-- The tick or the word taken from the ports and the free cycle used up are no part of what an event gives. -/
theorem EventGives.of_taken {s t : State} {pending : Bool} {port : Option Word} {moves : List Stimulus}
    {ws : List PwmWrite} {bs : List Bool}
    (gives : EventGives { s with tickPending := pending, cmdPort := port, env := moves } t ws bs) :
    EventGives s t ws bs :=
  ⟨⟨gives.writes.trace, gives.writes.sink⟩, gives.responses, gives.beforeReset⟩

theorem commandOn_gives (k : Config) (i : Instr) (s : State) :
    EventGives s (commandOn k i s) (commandWrites k i s.channels) [(commandOn k i s).running] :=
  ⟨commandOn_writes k i s, commandOn_responses k i s, (commandOn_samePorts k i s).beforeReset⟩

theorem tickPinOn_gives (k : Config) (s : State) :
    EventGives s (tickPinOn k s) (commandWrites k .tick s.channels) [] := by
  obtain ⟨⟨trace, sink⟩, -, before⟩ := commandOn_gives k .tick s
  rw [tickPinOn_eq_tickOn]
  exact ⟨⟨trace, sink⟩, (List.append_nil _).symm, before⟩

theorem ignored_gives (cause : Cause) (s : State) : EventGives s (ignored cause s) [] [s.running] :=
  ⟨⟨(List.append_nil _).symm, rfl⟩, rfl, rfl⟩

/-! One event in two states that agree on what the block can read -/

/-- The label is the same in both, or left as it was in both. -/
def SameLabel (s s' t t' : State) : Prop :=
  t.outcome = t'.outcome ∨ (t.outcome = s.outcome ∧ t'.outcome = s'.outcome)

/-- From `s` and from `s'` the answers are next states that agree again, with the same writes, responses and label. -/
def EventsAlike (s s' : State) (o o' : Host.Outcome State Fault Refusal) : Prop :=
  ∃ t t' ws bs, o = .next t ∧ o' = .next t' ∧ SameBlock t t' ∧ EventGives s t ws bs ∧ EventGives s' t' ws bs ∧
    SameLabel s s' t t'

theorem tickPinOn_sameBlock {s s' : State} (same : SameBlock s s') (k : Config) :
    SameBlock (tickPinOn k s) (tickPinOn k s') := by
  obtain ⟨channels, running, pending, rst, port, env⟩ := commandOn_sameBlock same k .tick
  rw [tickPinOn_eq_tickOn, tickPinOn_eq_tickOn]
  exact ⟨channels, running, pending, rst, port, env⟩

theorem arbitrate_alike {s s' : State} (same : SameBlock s s') :
    EventsAlike s s' (arbitrate exec Config.cfg s) (arbitrate exec Config.cfg s') := by
  obtain ⟨t, event, -, -⟩ := arbitrate_appends s
  have ⟨channels, running, latch, rst, port, env⟩ := same
  rcases arbitrate_exec_cases event with ⟨pending, rfl⟩ | ⟨noTick, w, i, waiting, decoded, rfl⟩ |
    ⟨noTick, w, r, waiting, reserved, rfl⟩ | ⟨noTick, empty, rfl⟩
  · have cleared : SameBlock { s with tickPending := false } { s' with tickPending := false } :=
      ⟨channels, running, rfl, rst, port, env⟩
    refine ⟨_, _, _, _, event, arbitrate_of_pending (latch ▸ pending), tickPinOn_sameBlock cleared _,
      (tickPinOn_gives _ _).of_taken, ?_, .inl rfl⟩
    exact channels ▸ (tickPinOn_gives Config.cfg { s' with tickPending := false }).of_taken
  · have accepted : SameBlock { s with cmdPort := none } { s' with cmdPort := none } :=
      ⟨channels, running, latch, rst, rfl, env⟩
    have alike := commandOn_sameBlock accepted Config.cfg i
    refine ⟨_, _, _, _, event, arbitrate_of_instr (latch ▸ noTick) (port ▸ waiting) decoded, alike,
      (commandOn_gives _ i _).of_taken, ?_, .inl ?_⟩
    · have gives := (commandOn_gives Config.cfg i { s' with cmdPort := none }).of_taken
      rw [← alike.running] at gives
      exact channels ▸ gives
    · rw [commandOn_outcome, commandOn_outcome]
  · refine ⟨_, _, _, _, event, arbitrate_of_reserved (latch ▸ noTick) (port ▸ waiting) reserved,
      ⟨channels, running, latch, rst, rfl, env⟩, (ignored_gives _ _).of_taken, ?_, .inl rfl⟩
    exact running ▸ (ignored_gives .ignReserved { s' with cmdPort := none }).of_taken
  · exact ⟨_, _, _, _, event, arbitrate_of_nothing (latch ▸ noTick) (port ▸ empty), same,
      EventGives.nothing rfl rfl rfl rfl, EventGives.nothing rfl rfl rfl rfl, .inr ⟨rfl, rfl⟩⟩

theorem sameBlock_env {s s' : State} (same : SameBlock s s') (moves : List Stimulus) :
    SameBlock { s with env := moves } { s' with env := moves } :=
  ⟨same.channels, same.running, same.tickPending, same.rst, same.cmdPort, rfl⟩

theorem arbitrate_env_alike {s s' : State} (same : SameBlock s s') (moves : List Stimulus) :
    EventsAlike s s' (arbitrate exec Config.cfg { s with env := moves })
      (arbitrate exec Config.cfg { s' with env := moves }) := by
  obtain ⟨t, t', ws, bs, event, event', block, gives, gives', label⟩ := arbitrate_alike (sameBlock_env same moves)
  exact ⟨t, t', ws, bs, event, event', block, gives.of_taken, gives'.of_taken, label⟩

/-! One step in two such states -/

/-- What `StepsReadNoObservation` says of two states. -/
def StepsAlike (s s' : State) : Prop :=
  ∃ t t' ws bs, step s = .next t ∧ step s' = .next t' ∧ SameBlock t t' ∧ StepGives s t ws bs ∧ StepGives s' t' ws bs ∧
    SameLabel s s' t t'

theorem stepGives_of_event {s t : State} {ws : List PwmWrite} {bs : List Bool} (noReset : resetsNext s = false)
    (gives : EventGives s t ws bs) : StepGives s t ws bs := by
  obtain ⟨⟨trace, -⟩, responses, before⟩ := gives
  refine ⟨?_, ?_, ?_⟩
  · rw [trace, before, List.append_assoc]
  · rw [trace, noReset]; rfl
  · rw [responses, noReset]; rfl

/-- A reset gives the host nothing and the sink what it has received beyond the trace. -/
theorem stepGives_of_reset {k : Config} {s u : State} {ws : List PwmWrite} (resets : resetsNext s = true)
    (before : u.beforeReset = s.beforeReset) : StepGives s (resetBlock k (s.trace ++ ws) u) ws [] := by
  refine ⟨?_, ?_, ?_⟩
  · rw [resetBlock_beforeReset, resetBlock_trace, before, List.append_nil, List.append_assoc]
  · rw [resets]; rfl
  · rw [resets]; rfl

theorem resetsNext_congr {s s' : State} (same : SameBlock s s') : resetsNext s' = resetsNext s := by
  unfold resetsNext
  rw [same.env, same.rst]

section
variable {s s' : State} (same : SameBlock s s')
include same

/-- Steps without a reset are alike when what they answer is. -/
theorem stepsAlike_of_eventsAlike (noReset : resetsNext s = false) (alike : EventsAlike s s' (step s) (step s')) :
    StepsAlike s s' := by
  obtain ⟨t, t', ws, bs, next, next', block, gives, gives', label⟩ := alike
  exact ⟨t, t', ws, bs, next, next', block, stepGives_of_event noReset gives,
    stepGives_of_event ((resetsNext_congr same).trans noReset) gives', label⟩

/-- The fall of `rst_i` and the moves at the ports leave every observation. -/
theorem stepsAlike_of_move {pending level : Bool} {port : Option Word} {moves : List Stimulus}
    (noReset : resetsNext s = false)
    (next : step s = .next { s with tickPending := pending, rst := level, cmdPort := port, env := moves })
    (next' : step s' = .next { s' with tickPending := pending, rst := level, cmdPort := port, env := moves }) :
    StepsAlike s s' :=
  stepsAlike_of_eventsAlike same noReset ⟨_, _, [], [], next, next',
    ⟨same.channels, same.running, rfl, rfl, rfl, rfl⟩, EventGives.nothing rfl rfl rfl rfl,
    EventGives.nothing rfl rfl rfl rfl, .inr ⟨rfl, rfl⟩⟩

theorem stepsAlike_of_freeCycle (free : FreeCycle s) : StepsAlike s s' := by
  have free' : FreeCycle s' := ⟨same.rst ▸ free.rst, same.env ▸ free.env⟩
  have noReset : resetsNext s = false := by
    rcases free.env with moves | ⟨rest, moves⟩ <;> rw [resetsNext, moves]
  refine stepsAlike_of_eventsAlike same noReset ?_
  rw [step_of_freeCycle free, step_of_freeCycle free', same.env]
  exact arbitrate_env_alike same s'.env.tail

theorem stepsAlike_of_reset {rest : List Stimulus} (reset : s.env = .reset :: rest) : StepsAlike s s' := by
  have resets : resetsNext s = true := by rw [resetsNext, reset]
  have gives := stepGives_of_reset (k := Config.cfg) (u := { s with env := rest }) (ws := []) resets rfl
  have gives' := stepGives_of_reset (k := Config.cfg) (s := s') (u := { s' with env := rest }) (ws := [])
    ((resetsNext_congr same).trans resets) rfl
  rw [List.append_nil] at gives gives'
  exact ⟨_, _, [], [], step_of_reset reset, step_of_reset (same.env ▸ reset),
    ⟨rfl, rfl, rfl, rfl, same.cmdPort, rfl⟩, gives, gives', .inl rfl⟩

theorem stepsAlike_of_resetDuring {n : Nat} {rest : List Stimulus} (low : s.rst = false)
    (rises : s.env = .resetDuring n :: rest) : StepsAlike s s' := by
  have resets : resetsNext s = true := by simp [resetsNext, rises, low]
  obtain ⟨u, u', ws, bs, event, event', block, gives, gives', -⟩ := arbitrate_env_alike same rest
  refine ⟨_, _, ws.take n, [],
    (step_of_resetDuring low rises).trans (congrArg (abandonEvent Config.cfg n s) event),
    (step_of_resetDuring (same.rst ▸ low) (same.env ▸ rises)).trans (congrArg (abandonEvent Config.cfg n s') event'),
    ⟨rfl, rfl, rfl, rfl, block.cmdPort, block.env⟩, ?_, ?_, .inl rfl⟩
  · rw [gives.writes.trace, List.take_length_add_append]
    exact stepGives_of_reset resets gives.beforeReset
  · rw [gives'.writes.trace, List.take_length_add_append]
    exact stepGives_of_reset ((resetsNext_congr same).trans resets) gives'.beforeReset

theorem stepsAlike_of_present {w : Word} {rest : List Stimulus} (low : s.rst = false)
    (presents : s.env = .present w :: rest) : StepsAlike s s' := by
  have noReset : resetsNext s = false := by rw [resetsNext, presents]
  have low' : s'.rst = false := same.rst ▸ low
  have presents' : s'.env = .present w :: rest := same.env ▸ presents
  rcases Option.eq_none_or_eq_some s.cmdPort with empty | ⟨v, waits⟩
  · have taken := step_of_present_empty low presents empty
    have taken' := step_of_present_empty low' presents' (same.cmdPort ▸ empty)
    rw [← same.rst, ← same.tickPending] at taken'
    exact stepsAlike_of_move same noReset taken taken'
  · refine stepsAlike_of_eventsAlike same noReset ?_
    rw [step_of_present_waiting low presents waits, step_of_present_waiting low' presents' (same.cmdPort ▸ waits)]
    exact arbitrate_alike same

theorem stepsAlike_of_rst_falls (high : s.rst = true) (noCycle : ∀ rest, s.env ≠ .reset :: rest) : StepsAlike s s' := by
  have noReset : resetsNext s = false := by
    unfold resetsNext
    split
    · exact absurd ‹_› (noCycle _)
    · rw [high]; rfl
    · rfl
  have falls := step_of_rst_falls high noCycle
  have falls' := step_of_rst_falls (s := s') (same.rst ▸ high) (same.env ▸ noCycle)
  rw [← same.tickPending, ← same.cmdPort, ← same.env] at falls'
  exact stepsAlike_of_move same noReset falls falls'

theorem stepsAlike_of_pulse {rest : List Stimulus} (low : s.rst = false) (pulse : s.env = .pulse :: rest) :
    StepsAlike s s' := by
  have latched := step_of_pulse low pulse
  have latched' := step_of_pulse (s := s') (same.rst ▸ low) (same.env ▸ pulse)
  refine stepsAlike_of_move same (by rw [resetsNext, pulse]) latched ?_
  rw [same.rst, same.cmdPort]
  exact latched'

end

/-! The statements -/

/-- Settles O51: the same move comes next in both states, and what it does is a function of what they agree on. -/
theorem stepsReadNoObservation : Obligations.StepsReadNoObservation := by
  intro s s' same
  by_cases reset : ∃ rest, s.env = .reset :: rest
  · exact stepsAlike_of_reset same reset.choose_spec
  by_cases level : s.rst = true
  · exact stepsAlike_of_rst_falls same level (not_exists.1 reset)
  have low : s.rst = false := Bool.eq_false_iff.2 level
  match moves : s.env with
  | [] => exact stepsAlike_of_freeCycle same ⟨low, .inl moves⟩
  | .free :: rest => exact stepsAlike_of_freeCycle same ⟨low, .inr ⟨rest, moves⟩⟩
  | .pulse :: rest => exact stepsAlike_of_pulse same low moves
  | .present w :: rest => exact stepsAlike_of_present same low moves
  | .reset :: rest => exact absurd ⟨rest, moves⟩ reset
  | .resetDuring n :: rest => exact stepsAlike_of_resetDuring same low moves

theorem writes_wf (ws : List PwmWrite) {m : Memory} (canonical : m.wf) :
    (ws.foldl (fun m w => m.write w.channel w.duty) m).wf := by
  induction ws generalizing m with
  | nil => exact canonical
  | cons w rest ih => exact ih (Memory.write_wf canonical w.channel w.duty)

/-- Settles O49: a reset empties the list, and an event writes to it. -/
theorem sinkStaysCanonical : Obligations.SinkStaysCanonical := by
  intro s t canonical next
  rcases step_cases next with ⟨moves, rfl⟩ | ⟨-, rfl⟩ | ⟨-, pending, port, moves, rfl⟩ | ⟨-, moves, event⟩ |
    ⟨-, n, moves, u, -, rfl⟩
  · exact List.Pairwise.nil
  · exact canonical
  · exact canonical
  · have itself : SameBlock s s := ⟨rfl, rfl, rfl, rfl, rfl, rfl⟩
    obtain ⟨t', _, ws, _, event', -, -, gives, -⟩ := arbitrate_env_alike itself moves
    obtain rfl := Host.Outcome.next.inj (event.symm.trans event')
    rw [gives.writes.sink]
    exact writes_wf ws canonical
  · exact List.Pairwise.nil

end Sys2Proof.Machine
end
